-- ==== Sys2Proof/Word.lean ====
section
/-!
DEFINITION. The word types of SBCODEC (spec/00_scope.md R7, R8).
A byte is 8 bits, a host register is a 32-bit word, a device word is 16 bits.
-/

namespace Sys2Proof

/-- A byte: 8 bits (R7). -/
abbrev Byte := BitVec 8

/-- A device word, a 16-bit quantity of a frame (R7, R13). -/
abbrev Half := BitVec 16

/-- A host register value: 32 bits (R7). -/
abbrev Word := BitVec 32

end Sys2Proof
end

