-- ==== Sys2Proof/Config.lean ====
section
/-!
DEFINITION. The parameters of SBCODEC version 1 (spec/00_scope.md R5), the constants of its register map, the
OPEN parameters that the spec gives no value, and the one free choice it leaves to the platform.
-/

namespace Sys2Proof.Config

/-- RX_CAP: the RX buffer holds 3 header + 255 payload + 2 CRC bytes (R5, R31). -/
abbrev rxCap : Nat := 260

/-- TX_CAP: a read request has 8 bytes (R5, R38). -/
abbrev txCap : Nat := 8

/-- DESC_COUNT (R5, R39). -/
abbrev descCount : Nat := 64

/-- The ID register: block identifier 0x5342 over command-set revision 0x0007 (spec/10_state.md R21). -/
abbrev idValue : Word := 0x53420007#32

/-- One section of the host's register map: `(start_register, word_count)` and the descriptor words of its
fields (R5 REGISTER_MAP, 92_eei_decisions.md D39). -/
structure Section where
  startRegister : Half
  wordCount : Half
  descriptors : List Word
  deriving DecidableEq, Repr, Inhabited

/-- The OPEN parameters of R5. They are host data: no result of the block depends on them (I5, I6). -/
structure HostParams where
  /-- CHARGE_FLAG_BITS: which 8 of the 16 named indices of the charge-status word carry a named flag. -/
  chargeFlagBits : List Nat
  /-- STATUS_NAMES for status1: named index i is entry i. -/
  status1Names : List String
  /-- STATUS_NAMES for status2. -/
  status2Names : List String
  /-- STATUS_NAMES for the eight charge-status flags. -/
  chargeNames : List String
  /-- REGISTER_MAP. -/
  registerMap : List Section
  /-- OTHER_ALARM_REGISTER. -/
  otherAlarmRegister : Half
  /-- MFR_STRING_WIDTH. -/
  mfrStringWidth : Byte
  deriving DecidableEq, Repr, Inhabited

/-- What R5 does fix about the OPEN parameters: the counts of names and flags, and the two candidate registers. -/
def HostParams.wf (p : HostParams) : Bool :=
  p.chargeFlagBits.length == 8 && decide p.chargeFlagBits.Nodup && p.chargeFlagBits.all (· < 16) &&
  p.status1Names.length == 16 && p.status2Names.length == 16 && p.chargeNames.length == 8 &&
  (p.otherAlarmRegister == 0x13FC#16 || p.otherAlarmRegister == 0x13F0#16)

/-- The OPEN parameters, left open (log entry 12). -/
opaque hostParams : HostParams

/-- BLOCK_BASE: where the platform places the block (spec/20_memory.md R68), left open (log entry 12). -/
opaque blockBase : Nat

/-- FREE CHOICE: whether the n-th reset that coincides with a CMD write falls before that command (true) or after
it (false). The spec admits both (spec/70_reset_and_hazards.md R250, I8; log entry 7). -/
opaque resetComesFirst : Nat → Bool

end Sys2Proof.Config
end

