-- ==== Sys2Proof/Syntax.lean ====
section
/-!
DEFINITION. The twelve commands of SBCODEC as syntax (spec/30_encoding.md R81, R82): one constructor per row of
spec/opcode_table.json. Bit patterns are bit vectors; the counts and indexes N and IDX are natural numbers, whose
ranges WellFormed checks (R87: an operand out of its field's range is an assembly error, not an encoding).
-/

namespace Sys2Proof

/-- The buffer select BUF of CRC.BUF (R81): 0 = RX, 1 = TX. -/
inductive Buffer where
  | rx
  | tx
  deriving DecidableEq, Repr

/-- The source select SRC of DEC.FLAGS and DEC.ALARM (R81): 0 = ARG0, 1 = RAW. -/
inductive WordSource where
  | arg0
  | raw
  deriving DecidableEq, Repr

/-- A command. -/
inductive Instr where
  /-- NOP (R210). -/
  | nop
  /-- CRC.INIT (R106). -/
  | crcInit
  /-- CRC.BYTE DATA (R107). -/
  | crcByte (data : Byte)
  /-- CRC.POLY DATA (R108). -/
  | crcPoly (data : Byte)
  /-- CRC.BUF BUF, N (R109). -/
  | crcBuf (buf : Buffer) (n : Nat)
  /-- CRC.VERIFY EXPECT (R110). -/
  | crcVerify (expect : Half)
  /-- RX.CLEAR (R132). -/
  | rxClear
  /-- FRAME.PARSE (R134). -/
  | frameParse
  /-- FRAME.REQ ADDR, START (R136). -/
  | frameReq (addr : Byte) (start : Half)
  /-- EXTRACT IDX (R163). -/
  | extract (idx : Nat)
  /-- DEC.FLAGS SRC (R191). -/
  | decFlags (src : WordSource)
  /-- DEC.ALARM SRC, IDX (R193). -/
  | decAlarm (src : WordSource) (idx : Nat)
  deriving DecidableEq, Repr

end Sys2Proof
end

