-- ==== Sys2Proof/WellFormed.lean ====
section
/-!
DEFINITION. Which commands are encodable: every operand in its field's range (spec/30_encoding.md R81, R87).
Operands held as bit vectors are in range by their type.
-/

namespace Sys2Proof

/-- The operands fit their fields: N is 16 bits, the descriptor index 8 bits, the alarm index 4 bits (R81). -/
def Instr.wellFormed : Instr → Bool
  | .nop => true
  | .crcInit => true
  | .crcByte _ => true
  | .crcPoly _ => true
  | .crcBuf _ n => decide (n < 2 ^ 16)
  | .crcVerify _ => true
  | .rxClear => true
  | .frameParse => true
  | .frameReq _ _ => true
  | .extract idx => decide (idx < 2 ^ 8)
  | .decFlags _ => true
  | .decAlarm _ idx => decide (idx < 2 ^ 4)

end Sys2Proof
end

