-- ==== Sys2Proof/Decode.lean ====
section
/-!
DEFINITION. Decoding a command word (spec/30_encoding.md R80 to R86), total on all 2^32 words and rejecting by name;
then the opcode map as data (R82); then the encoder, written from the same operand table (R81).
-/

namespace Sys2Proof

/-- OPC = w[7:0] (R80). -/
def fieldOpc (w : Word) : BitVec 8 := w.extractLsb' 0 8

/-- A = w[15:8] (R80). -/
def fieldA (w : Word) : BitVec 8 := w.extractLsb' 8 8

/-- B = w[31:16] (R80). -/
def fieldB (w : Word) : BitVec 16 := w.extractLsb' 16 16

/-- Why a word is no command (R83). Both raise ILLEGAL_COMMAND when the word is written to CMD. -/
inductive DecodeError where
  /-- R83 case 1: OPC is not in the opcode map. -/
  | reservedOpcode
  /-- R83 case 2: OPC is listed, but a must-be-zero bit is 1. -/
  | mustBeZeroBit
  deriving DecidableEq, Repr

/-- The buffer a BUF bit selects (R81). -/
def bufferOfBit (b : Bool) : Buffer := if b then .tx else .rx

/-- The word source an SRC bit selects (R81). -/
def sourceOfBit (b : Bool) : WordSource := if b then .raw else .arg0

/-- The command if its must-be-zero bits are zero, else the rejection of R83 case 2. -/
def onlyIf (zeroBits : Bool) (i : Instr) : Except DecodeError Instr :=
  if zeroBits then .ok i else .error .mustBeZeroBit

/-- The listed opcodes (R82). -/
inductive Opcode where
  | nop
  | crcInit
  | crcByte
  | crcPoly
  | crcBuf
  | crcVerify
  | rxClear
  | frameParse
  | frameReq
  | extract
  | decFlags
  | decAlarm
  deriving DecidableEq, Repr

/-- The OPC value of an opcode (R82). -/
def Opcode.code : Opcode → BitVec 8
  | .nop => 0x00#8
  | .crcInit => 0x01#8
  | .crcByte => 0x02#8
  | .crcPoly => 0x03#8
  | .crcBuf => 0x04#8
  | .crcVerify => 0x05#8
  | .rxClear => 0x10#8
  | .frameParse => 0x11#8
  | .frameReq => 0x12#8
  | .extract => 0x20#8
  | .decFlags => 0x30#8
  | .decAlarm => 0x31#8

/-- The opcode an OPC value names; a value not listed is reserved (R82). -/
def opcodeOf (c : BitVec 8) : Option Opcode :=
  [Opcode.nop, .crcInit, .crcByte, .crcPoly, .crcBuf, .crcVerify, .rxClear, .frameParse, .frameReq, .extract,
    .decFlags, .decAlarm].find? fun o => o.code == c

/-- The command of an opcode from its operands A and B, each row's must-be-zero bits as R81 marks them. -/
def decodeOperands (a : BitVec 8) (b : BitVec 16) : Opcode → Except DecodeError Instr
  | .nop => onlyIf (a == 0#8 && b == 0#16) .nop
  | .crcInit => onlyIf (a == 0#8 && b == 0#16) .crcInit
  | .crcByte => onlyIf (b == 0#16) (.crcByte a)
  | .crcPoly => onlyIf (b == 0#16) (.crcPoly a)
  | .crcBuf => onlyIf (a.extractLsb' 1 7 == 0#7) (.crcBuf (bufferOfBit (a.getLsbD 0)) b.toNat)
  | .crcVerify => onlyIf (a == 0#8) (.crcVerify b)
  | .rxClear => onlyIf (a == 0#8 && b == 0#16) .rxClear
  | .frameParse => onlyIf (a == 0#8 && b == 0#16) .frameParse
  | .frameReq => .ok (.frameReq a b)
  | .extract => onlyIf (b == 0#16) (.extract a.toNat)
  | .decFlags => onlyIf (a.extractLsb' 1 7 == 0#7 && b == 0#16) (.decFlags (sourceOfBit (a.getLsbD 0)))
  | .decAlarm =>
    onlyIf (a.extractLsb' 5 3 == 0#3 && b == 0#16)
      (.decAlarm (sourceOfBit (a.getLsbD 4)) (a.extractLsb' 0 4).toNat)

/-- Decode one command word (R86). -/
def decode (w : Word) : Except DecodeError Instr :=
  match opcodeOf (fieldOpc w) with
  | none => .error .reservedOpcode
  | some o => decodeOperands (fieldA w) (fieldB w) o

/-- One row of the opcode map (R82). -/
structure OpcodeRow where
  mnemonic : String
  /-- the row's match -/
  pattern : Word
  mask : Word
  deriving DecidableEq, Repr

/-- A word selects a row exactly when `(w & mask) == match` (R82). -/
def OpcodeRow.selects (r : OpcodeRow) (w : Word) : Bool := (w &&& r.mask) == r.pattern

/-- The row each command stands in (R82). -/
def Instr.row : Instr → OpcodeRow
  | .nop => ⟨"NOP", 0x00000000#32, 0xFFFFFFFF#32⟩
  | .crcInit => ⟨"CRC.INIT", 0x00000001#32, 0xFFFFFFFF#32⟩
  | .crcByte _ => ⟨"CRC.BYTE", 0x00000002#32, 0xFFFF00FF#32⟩
  | .crcPoly _ => ⟨"CRC.POLY", 0x00000003#32, 0xFFFF00FF#32⟩
  | .crcBuf _ _ => ⟨"CRC.BUF", 0x00000004#32, 0x0000FEFF#32⟩
  | .crcVerify _ => ⟨"CRC.VERIFY", 0x00000005#32, 0x0000FFFF#32⟩
  | .rxClear => ⟨"RX.CLEAR", 0x00000010#32, 0xFFFFFFFF#32⟩
  | .frameParse => ⟨"FRAME.PARSE", 0x00000011#32, 0xFFFFFFFF#32⟩
  | .frameReq _ _ => ⟨"FRAME.REQ", 0x00000012#32, 0x000000FF#32⟩
  | .extract _ => ⟨"EXTRACT", 0x00000020#32, 0xFFFF00FF#32⟩
  | .decFlags _ => ⟨"DEC.FLAGS", 0x00000030#32, 0xFFFFFEFF#32⟩
  | .decAlarm _ _ => ⟨"DEC.ALARM", 0x00000031#32, 0xFFFFE0FF#32⟩

/-- The opcode map (R82), one row a command. -/
def opcodeMap : List OpcodeRow :=
  [Instr.nop, .crcInit, .crcByte 0, .crcPoly 0, .crcBuf .rx 0, .crcVerify 0, .rxClear, .frameParse,
    .frameReq 0 0, .extract 0, .decFlags .arg0, .decAlarm .arg0 0].map Instr.row

/-- A command word from its three fields (R80). -/
def commandWord (opc a : BitVec 8) (b : BitVec 16) : Word := b ++ a ++ opc

/-- The BUF bit (R81). -/
def Buffer.bit : Buffer → BitVec 1
  | .rx => 0#1
  | .tx => 1#1

/-- The SRC bit (R81). -/
def WordSource.bit : WordSource → BitVec 1
  | .arg0 => 0#1
  | .raw => 1#1

/-- The word of a command (R80 to R82). Of an ill-formed command (WellFormed) the operand's excess bits are lost. -/
def encode : Instr → Word
  | .nop => commandWord 0x00#8 0#8 0#16
  | .crcInit => commandWord 0x01#8 0#8 0#16
  | .crcByte data => commandWord 0x02#8 data 0#16
  | .crcPoly data => commandWord 0x03#8 data 0#16
  | .crcBuf buf n => commandWord 0x04#8 (0#7 ++ buf.bit) (BitVec.ofNat 16 n)
  | .crcVerify expect => commandWord 0x05#8 0#8 expect
  | .rxClear => commandWord 0x10#8 0#8 0#16
  | .frameParse => commandWord 0x11#8 0#8 0#16
  | .frameReq addr start => commandWord 0x12#8 addr start
  | .extract idx => commandWord 0x20#8 (BitVec.ofNat 8 idx) 0#16
  | .decFlags src => commandWord 0x30#8 (0#7 ++ src.bit) 0#16
  | .decAlarm src idx => commandWord 0x31#8 (0#3 ++ src.bit ++ BitVec.ofNat 4 idx) 0#16

/-- The instruction the decoder reads from an instruction whose bits are `w`, numbered as spec/opcode_table.json
numbers them. A command is exactly one 32-bit word (R85); the bits from `nbits` up are 0. -/
def decodeTableWord (nbits w : Nat) : Option Instr :=
  if nbits ≤ 32 then (decode (BitVec.ofNat 32 (w % 2 ^ nbits))).toOption else none

end Sys2Proof
end

