-- ==== Sys2Proof/Machine/State.lean ====
section
/-!
DEFINITION. The state of SBCODEC (spec/10_state.md) as plain data, its reset value (R48), and the reasons a step can
stop. Registers are kept at the width the spec gives their used bits; the bits that read 0 are supplied by the host
read (Machine/Registers.lean).
-/

namespace Sys2Proof.Machine

/-- A byte array (spec/20_memory.md R60, spaces 2 and 3) as its cells in rising order of index, the cells that hold
what an unlisted index reads as left out. -/
abbrev Memory := List Host.Cell

/-- CTRL.TEMP_UNIT (R22). The value 3 is not legal and cannot be held. -/
inductive TempUnit where
  | celsius
  | fahrenheit
  | kelvin
  deriving DecidableEq, Repr

/-- CTRL.ROUND (R22): 0 = ties to even, 1 = ties away from zero. -/
inductive TieRule where
  | toEven
  | awayFromZero
  deriving DecidableEq, Repr

/-- The errors a command can raise (spec/60_exceptions.md R220, codes 1 to 9). -/
inductive CmdError where
  | tooShort
  | lengthMismatch
  | checksumMismatch
  | deviceRejected
  | unknownSection
  | decodeOutOfRange
  | illegalCommand
  | noFrame
  | bufferRange
  deriving DecidableEq, Repr

/-- What the outside world does to the block, one event a step: a host access of `width` bytes at a register-space
offset (R6, R62), the reset (R250), a reset that coincides with the host's write of `w` to CMD (R250, I8), and a bus
error the platform imposes (R256, I8). -/
inductive BusEvent where
  | read (width : Nat) (offset : BitVec 12)
  | write (width : Nat) (offset : BitVec 12) (value : Word)
  | reset
  | resetDuringCommand (w : Word)
  | busError
  deriving DecidableEq, Repr

/-- SBCODEC has no faults: an error is a code in STATUS and the machine goes on (R224, R225). Nobody raises one. -/
inductive Fault where
  deriving DecidableEq, Repr

/-- The reasons for which no step exists. -/
inductive Refusal where
  /-- A command whose meaning is not written; raised by exec's arms only, and no arm does. Safe. -/
  | notModelled (mnemonic : String)
  /-- A host access that is not 32 bits wide or not at a multiple of 4 (R62, I2: refuse); raised by the step. Safe. -/
  | outsideInterface
  /-- A bus error the platform imposes (I8: refuse); raised by the step. Safe. -/
  | busError
  deriving DecidableEq, Repr

/-- Everything the spec gives the machine; the last three fields are the model's own. -/
structure State where
  /-- CRC accumulator, CRC_HI (R26). -/
  crcHi : Byte
  /-- CRC accumulator, CRC_LO (R26). -/
  crcLo : Byte
  /-- CTRL.TEMP_UNIT (R22). -/
  tempUnit : TempUnit
  /-- CTRL.ROUND (R22). -/
  round : TieRule
  /-- CTRL.CRC_SWAP (R22). -/
  crcSwap : Bool
  /-- STATUS.LAST_ERR (R23); `none` is code 0, OK (R220). -/
  lastErr : Option CmdError
  /-- STATUS.PAYLOAD_VALID (R27). -/
  payloadValid : Bool
  /-- STATUS.CRC_MATCH (R23). -/
  crcMatch : Bool
  /-- STATUS.ERR_SEEN (R23). -/
  errSeen : Bool
  /-- STATUS.RX_OVF (R23). -/
  rxOvf : Bool
  /-- ARG0 (R25). -/
  arg0 : Word
  /-- DEV_ERR[7:0] (R28). -/
  devErr : Byte
  /-- FRAME_INFO[23:0] = PLEN ++ STAT ++ ADDR (R29). -/
  frameInfo : BitVec 24
  /-- FRAME_CRC (R30). -/
  frameCrc : Word
  /-- RX[0..259] (R31). -/
  rx : Memory
  /-- RX_LEN, 0 to RX_CAP (R31). -/
  rxLen : Fin (Config.rxCap + 1)
  /-- RAW (R33). -/
  raw : Word
  /-- VALUE = VALUE_HI ++ VALUE_LO, two's complement (R34). -/
  value : BitVec 64
  /-- STR_LEN[7:0] (R35). -/
  strLen : BitVec 8
  /-- FLAGS[15:0] (R36). -/
  flags : BitVec 16
  /-- LEVEL[1:0] (R37). -/
  level : BitVec 2
  /-- TX[0..7] (R38). -/
  tx : Memory
  /-- TX_LEN (R38). -/
  txLen : Fin (Config.txCap + 1)
  /-- DESC[0..63] (R39). -/
  desc : Vector Word Config.descCount
  /-- MODEL: the bus events still to come, first to come first (log entry 1). -/
  pending : List BusEvent
  /-- MODEL: the values the host has read, oldest first (R256; log entry 4). -/
  reads : List Word
  /-- MODEL: how many free choices have been used (log entry 7). -/
  choices : Nat
  deriving DecidableEq, Repr

/-- The state right after reset (R48, R250). RX and TX beyond their lengths are unspecified and unobservable (R47);
the model lists no cell of them (log entry 5). -/
def State.reset : State where
  crcHi := 0xFF#8
  crcLo := 0xFF#8
  tempUnit := .celsius
  round := .toEven
  crcSwap := false
  lastErr := none
  payloadValid := false
  crcMatch := false
  errSeen := false
  rxOvf := false
  arg0 := 0#32
  devErr := 0#8
  frameInfo := 0#24
  frameCrc := 0#32
  rx := []
  rxLen := 0
  raw := 0#32
  value := 0#64
  strLen := 0#8
  flags := 0#16
  level := 0#2
  tx := []
  txLen := 0
  desc := Vector.replicate Config.descCount 0#32
  pending := []
  reads := []
  choices := 0

end Sys2Proof.Machine
end

