-- ==== Sys2Proof/Machine/Ops.lean ====
section
/-!
DEFINITION. The operations the meanings share: the byte arrays, the CRC functions (spec/40_crc.md R100, R101, R104),
raising an error and completing (spec/00_scope.md R10, spec/60_exceptions.md R224), and the reset event (R250).
-/

namespace Sys2Proof.Machine

/-- What a meaning or a step answers. -/
abbrev Result := Host.Outcome State Fault Refusal

/-! ### Byte arrays -/

/-- What an index that the list leaves out reads as. No rule lets it be seen (R47, I1; log entry 5). -/
abbrev Memory.unlisted : Byte := 0#8

/-- The byte at index `a`. -/
def Memory.read : Memory → Nat → Byte
  | [], _ => Memory.unlisted
  | (k, b) :: m, a => if k = a then b else Memory.read m a

/-- `b` stored at index `a`, every other index unchanged, the canonical form kept. -/
def Memory.write : Memory → Nat → Byte → Memory
  | [], a, b => if b = Memory.unlisted then [] else [(a, b)]
  | (k, c) :: m, a, b =>
    if a < k then (if b = Memory.unlisted then (k, c) :: m else (a, b) :: (k, c) :: m)
    else if a = k then (if b = Memory.unlisted then m else (a, b) :: m)
    else (k, c) :: Memory.write m a b

/-- The canonical form: indexes strictly rising, and no cell that holds what an unlisted index reads as. -/
def Memory.wf : Memory → Bool
  | [] => true
  | (k, b) :: m => decide (b ≠ Memory.unlisted) && m.all (fun c => decide (k < c.1)) && Memory.wf m

/-- Every listed index is below `n`: the array has `n` cells. -/
def Memory.below (m : Memory) (n : Nat) : Bool := m.all fun c => decide (c.1 < n)

/-- The `n` bytes from index `start` on. -/
def Memory.slice (m : Memory) (start n : Nat) : List Byte :=
  (List.range n).map fun k => m.read (start + k)

/-- Bytes stored one after another from index `start` on. -/
def Memory.writeList : Memory → Nat → List Byte → Memory
  | m, _, [] => m
  | m, start, b :: bs => Memory.writeList (m.write start b) (start + 1) bs

/-! ### The CRC functions -/

/-- The CRC accumulator's seed, "seeded 0xFF/0xFF" (R100). -/
abbrev crcSeed : Byte × Byte := (0xFF#8, 0xFF#8)

/-- One table-driven byte step (R100). -/
def crcStepTbl (hi lo b : Byte) : Byte × Byte :=
  let i := hi ^^^ b
  (lo ^^^ tblHi i, tblLo i)

/-- Table steps over a byte sequence, from a given accumulator (R100, R109). -/
def crcFold (acc : Byte × Byte) (bs : List Byte) : Byte × Byte :=
  bs.foldl (fun p b => crcStepTbl p.1 p.2 b) acc

/-- The pair (hi, lo) of `compute(bytes)` (R100). -/
def crcCompute (bs : List Byte) : Byte × Byte := crcFold crcSeed bs

/-- One shift of the bit-serial loop, with polynomial 0xA001 (R101). -/
def crcShift (c : BitVec 16) : BitVec 16 :=
  if c.getLsbD 0 then (c >>> 1) ^^^ 0xA001#16 else c >>> 1

/-- `n` shifts of the bit-serial loop. -/
def crcShifts : Nat → BitVec 16 → BitVec 16
  | 0, c => c
  | n + 1, c => crcShifts n (crcShift c)

/-- One bit-serial byte step (R101). -/
def crcStepPoly (c : BitVec 16) (b : Byte) : BitVec 16 := crcShifts 8 (c ^^^ b.zeroExtend 16)

/-- The two CRC bytes in transmission order (R104). -/
def wireOrder (swap : Bool) (p : Byte × Byte) : Byte × Byte := if swap then (p.2, p.1) else p

/-! ### Updates of the state -/

/-- The accumulator replaced. -/
def State.withAcc (s : State) (p : Byte × Byte) : State := { s with crcHi := p.1, crcLo := p.2 }

/-- The accumulator as a pair (R26). -/
def State.acc (s : State) : Byte × Byte := (s.crcHi, s.crcLo)

/-- PAYLOAD_VALID replaced (R27). -/
def State.withPayloadValid (s : State) (v : Bool) : State := { s with payloadValid := v }

/-- CRC_MATCH replaced (R23). -/
def State.withCrcMatch (s : State) (v : Bool) : State := { s with crcMatch := v }

/-- RX_OVF set (R23). -/
def State.withRxOvf (s : State) : State := { s with rxOvf := true }

/-- ARG0 replaced (R25). -/
def State.withArg0 (s : State) (v : Word) : State := { s with arg0 := v }

/-- DEV_ERR replaced (R28). -/
def State.withDevErr (s : State) (v : Byte) : State := { s with devErr := v }

/-- FRAME_INFO replaced (R29). -/
def State.withFrameInfo (s : State) (v : BitVec 24) : State := { s with frameInfo := v }

/-- FRAME_CRC replaced (R30). -/
def State.withFrameCrc (s : State) (v : Word) : State := { s with frameCrc := v }

/-- RX and RX_LEN replaced (R31). -/
def State.withRx (s : State) (m : Memory) (n : Fin (Config.rxCap + 1)) : State := { s with rx := m, rxLen := n }

/-- RAW and VALUE replaced (R33, R34). -/
def State.withInteger (s : State) (raw : Word) (value : BitVec 64) : State := { s with raw := raw, value := value }

/-- STR_LEN replaced (R35). -/
def State.withStrLen (s : State) (v : BitVec 8) : State := { s with strLen := v }

/-- FLAGS replaced (R36). -/
def State.withFlags (s : State) (v : BitVec 16) : State := { s with flags := v }

/-- LEVEL replaced (R37). -/
def State.withLevel (s : State) (v : BitVec 2) : State := { s with level := v }

/-- TX and TX_LEN replaced (R38). -/
def State.withTx (s : State) (m : Memory) (n : Fin (Config.txCap + 1)) : State := { s with tx := m, txLen := n }

/-- The descriptor table replaced (R39). -/
def State.withDesc (s : State) (d : Vector Word Config.descCount) : State := { s with desc := d }

/-- The events still to come replaced. -/
def State.withPending (s : State) (l : List BusEvent) : State := { s with pending := l }

/-- The values the host has read replaced. -/
def State.withReads (s : State) (l : List Word) : State := { s with reads := l }

/-- The count of free choices replaced. -/
def State.withChoices (s : State) (n : Nat) : State := { s with choices := n }

/-- The state after `raise E` (R10, R224): LAST_ERR holds E's code and ERR_SEEN is set. -/
def State.withError (s : State) (e : CmdError) : State := { s with lastErr := some e, errSeen := true }

/-- The state after a command that ends without a raise (R10): LAST_ERR is 0. -/
def State.withOk (s : State) : State := { s with lastErr := none }

/-- `raise E`: this machine's one way of taking an error (R10, R224). What the command wrote before stays done;
control does not move, and there is nothing to return from (R225). -/
def raise (e : CmdError) (s : State) : Result := .next (s.withError e)

/-- End a command without a raise (R10). -/
def complete (s : State) : Result := .next s.withOk

/-- The reset event (R250): every piece of the block's state at its reset value (R48). What the host has still to do
and what it has read are not the block's (log entry 8). -/
def State.afterReset (s : State) : State :=
  { State.reset with pending := s.pending, reads := s.reads, choices := s.choices }

end Sys2Proof.Machine
end

