-- ==== Sys2Proof/Machine/Flags.lean ====
section
/-!
DEFINITION. The STATUS and CTRL registers as words (spec/10_state.md R22, R23) and the error codes
(spec/60_exceptions.md R220).
-/

namespace Sys2Proof.Machine

/-- The code of an error (R220). -/
def CmdError.code : CmdError → BitVec 4
  | .tooShort => 1#4
  | .lengthMismatch => 2#4
  | .checksumMismatch => 3#4
  | .deviceRejected => 4#4
  | .unknownSection => 5#4
  | .decodeOutOfRange => 6#4
  | .illegalCommand => 7#4
  | .noFrame => 8#4
  | .bufferRange => 9#4

/-- STATUS.LAST_ERR (R23): 0 is OK (R220). -/
def State.lastErrCode (s : State) : BitVec 4 :=
  match s.lastErr with
  | none => 0#4
  | some e => e.code

/-- STATUS as the host reads it (R23). -/
def State.statusWord (s : State) : Word :=
  0#22 ++ BitVec.ofBool s.rxOvf ++ BitVec.ofBool s.errSeen ++ 0#2 ++ BitVec.ofBool s.crcMatch ++
    BitVec.ofBool s.payloadValid ++ s.lastErrCode

/-- A host write to STATUS: writing 1 clears ERR_SEEN (bit 8) or RX_OVF (bit 9), and nothing else changes (R23). -/
def State.clearSticky (s : State) (v : Word) : State :=
  { s with errSeen := s.errSeen && !v.getLsbD 8, rxOvf := s.rxOvf && !v.getLsbD 9 }

/-- The code of TEMP_UNIT (R22). -/
def TempUnit.code : TempUnit → BitVec 2
  | .celsius => 0#2
  | .fahrenheit => 1#2
  | .kelvin => 2#2

/-- TEMP_UNIT after a write of `c`: 3 leaves it unchanged (R22). -/
def TempUnit.afterWrite (old : TempUnit) (c : BitVec 2) : TempUnit :=
  if c = 0#2 then .celsius else if c = 1#2 then .fahrenheit else if c = 2#2 then .kelvin else old

/-- The bit of ROUND (R22). -/
def TieRule.bit : TieRule → BitVec 1
  | .toEven => 0#1
  | .awayFromZero => 1#1

/-- CTRL as the host reads it (R22). -/
def State.ctrlWord (s : State) : Word := 0#28 ++ BitVec.ofBool s.crcSwap ++ s.round.bit ++ s.tempUnit.code

/-- A host write to CTRL (R22). -/
def State.writeCtrl (s : State) (v : Word) : State :=
  { s with
    tempUnit := s.tempUnit.afterWrite (v.extractLsb' 0 2)
    round := if v.getLsbD 2 then .awayFromZero else .toEven
    crcSwap := v.getLsbD 3 }

end Sys2Proof.Machine
end

