-- ==== Sys2Proof/Machine/Operands.lean ====
section
/-!
DEFINITION. The operands commands take from the state: the word source of DEC.FLAGS and DEC.ALARM
(spec/30_encoding.md R81), the buffers of CRC.BUF, the descriptor word (R84), the payload space and its big-endian
integers (spec/42_extract.md R161, R162), the fixed-point arithmetic (R166 to R168) and trimming (R169).
-/

namespace Sys2Proof.Machine

/-- The 32-bit word that SRC selects (R81, R191, R193). -/
def sourceWord (src : WordSource) (s : State) : Word :=
  match src with
  | .arg0 => s.arg0
  | .raw => s.raw

/-- The bytes of the buffer that BUF selects (R109). -/
def bufferBytes (buf : Buffer) (s : State) : Memory :=
  match buf with
  | .rx => s.rx
  | .tx => s.tx

/-- The length of the buffer that BUF selects (R109). -/
def bufferLength (buf : Buffer) (s : State) : Nat :=
  match buf with
  | .rx => s.rxLen.val
  | .tx => s.txLen.val

/-! ### Descriptors -/

/-- The field kinds of a descriptor (R84). -/
inductive FieldKind where
  | u16
  | s16
  | u32
  | s32
  | str
  deriving DecidableEq, Repr

/-- OFFSET, bits 7:0 (R84). -/
def descOffset (d : Word) : Nat := (d.extractLsb' 0 8).toNat

/-- WIDTH, bits 15:8 (R84). -/
def descWidth (d : Word) : Nat := (d.extractLsb' 8 8).toNat

/-- KIND, bits 19:16; codes 5 to 15 are reserved (R84). -/
def descKind (d : Word) : Option FieldKind :=
  match (d.extractLsb' 16 4).toNat with
  | 0 => some .u16
  | 1 => some .s16
  | 2 => some .u32
  | 3 => some .s32
  | 4 => some .str
  | _ => none

/-- SCALE, bits 21:20: the decimal exponent e (R84). -/
def descScale (d : Word) : Nat := (d.extractLsb' 20 2).toNat

/-- TEMP, bit 22 (R84). -/
def descTemp (d : Word) : Bool := d.getLsbD 22

/-- VALID, bit 31 (R84). -/
def descValid (d : Word) : Bool := d.getLsbD 31

/-- The descriptor at an index and its kind, where the index exists and the descriptor is valid (R164, check 1). -/
def selectDescriptor (s : State) (idx : Nat) : Option (Word × FieldKind) :=
  match s.desc[idx]? with
  | none => none
  | some d => if descValid d then (descKind d).map fun k => (d, k) else none

/-- The number of payload bytes of a field (R160, R163). -/
def fieldWidth (d : Word) : FieldKind → Nat
  | .u16 => 2
  | .s16 => 2
  | .u32 => 4
  | .s32 => 4
  | .str => descWidth d

/-- Which kinds are two's-complement signed (R160). -/
def FieldKind.signed : FieldKind → Bool
  | .s16 => true
  | .s32 => true
  | .u16 => false
  | .u32 => false
  | .str => false

/-! ### Payload -/

/-- PLEN = FRAME_INFO[23:16] (R29). -/
def State.plen (s : State) : Nat := (s.frameInfo.extractLsb' 16 8).toNat

/-- STAT = FRAME_INFO[15:8] (R29). -/
def State.stat (s : State) : Byte := s.frameInfo.extractLsb' 8 8

/-- ADDR = FRAME_INFO[7:0] (R29). -/
def State.addr (s : State) : Byte := s.frameInfo.extractLsb' 0 8

/-- `payload[o] = RX[3 + o]` (R161). -/
def payloadByte (rx : Memory) (o : Nat) : Byte := rx.read (3 + o)

/-- The `n` payload bytes from offset `o` on. -/
def payloadBytes (rx : Memory) (o n : Nat) : List Byte := (List.range n).map fun j => payloadByte rx (o + j)

/-- The number a byte sequence spells, first byte most significant (R63, R162). -/
def beNat (bs : List Byte) : Nat := bs.foldl (fun acc b => acc * 256 + b.toNat) 0

/-- The raw integer of a field's bytes: sign-extended or zero-extended to an unbounded integer (R162). -/
def rawInteger (k : FieldKind) (bs : List Byte) : Int :=
  if k.signed then (BitVec.ofNat (8 * bs.length) (beNat bs)).toInt else (beNat bs : Int)

/-- The trimmed length of an `n`-byte string at payload offset `o` (R169). -/
def trimmedLength (rx : Memory) (o : Nat) : Nat → Nat
  | 0 => 0
  | n + 1 => if payloadByte rx (o + n) = 0x00#8 then trimmedLength rx o n else n + 1

/-! ### Fixed-point arithmetic -/

/-- Rounding of `num / den` for `den > 0` (R167). -/
def rnd (tie : TieRule) (num den : Int) : Int :=
  let q := num / den
  let r := num % den
  if 2 * r < den then q
  else if 2 * r > den then q + 1
  else
    match tie with
    | .toEven => if q % 2 = 0 then q else q + 1
    | .awayFromZero => if num ≥ 0 then q + 1 else q

/-- The factors (M, D, OFF) of a field (R168). -/
def conv (temp : Bool) (unit : TempUnit) : Int × Int × Int :=
  if temp then
    match unit with
    | .celsius => (1, 1, 0)
    | .fahrenheit => (9, 5, 3200)
    | .kelvin => (1, 1, 27315)
  else (1, 1, 0)

/-- The value in hundredths of the unit (R166): one exact rounding, then the unit's offset. -/
def scaled (tie : TieRule) (unit : TempUnit) (raw : Int) (e : Nat) (temp : Bool) : Int :=
  let c := conv temp unit
  rnd tie (raw * c.1 * 100) (c.2.1 * 10 ^ e) + c.2.2

/-! ### Bit fields -/

/-- The named-index vector of a status word: named index i is bit 15 - i, so the decode is a bit reversal (R191). -/
def flagVector (w : BitVec 16) : BitVec 16 := w.reverse

/-- `(word >> (index*2)) & 0b11` (R193). -/
def alarmField (w : Word) (idx : Nat) : BitVec 2 := (w >>> (2 * idx)).extractLsb' 0 2

end Sys2Proof.Machine
end

