-- ==== Sys2Proof/Machine/Bitfield.lean ====
section
/-!
DEFINITION. The bitfield decoder's commands (spec/43_bitfield.md R191, R193).
-/

namespace Sys2Proof.Machine

/-- DEC.FLAGS: the status word's bits by named index (R191). -/
def execDecFlags (src : WordSource) (s : State) : Result :=
  complete (s.withFlags (flagVector ((sourceWord src s).extractLsb' 0 16)))

/-- DEC.ALARM: one 2-bit field of the alarm word (R193). -/
def execDecAlarm (src : WordSource) (idx : Nat) (s : State) : Result :=
  complete (s.withLevel (alarmField (sourceWord src s) idx))

end Sys2Proof.Machine
end

