-- ==== Sys2Proof/Machine/Control.lean ====
section
/-!
DEFINITION. The control command (spec/44_control.md).
-/

namespace Sys2Proof.Machine

/-- NOP: only complete (R210). -/
def execNop (s : State) : Result := complete s

end Sys2Proof.Machine
end

