-- ==== Sys2Proof/Machine/Crc.lean ====
section
/-!
DEFINITION. The CRC-16 engine's commands (spec/40_crc.md R106 to R110).
-/

namespace Sys2Proof.Machine

/-- CRC.INIT: the accumulator takes the seed (R106). -/
def execCrcInit (s : State) : Result := complete (s.withAcc crcSeed)

/-- CRC.BYTE: one table-driven step (R107). -/
def execCrcByte (data : Byte) (s : State) : Result :=
  complete (s.withAcc (crcStepTbl s.crcHi s.crcLo data))

/-- CRC.POLY: one bit-serial step on `CRC_LO ++ CRC_HI` (R108). -/
def execCrcPoly (data : Byte) (s : State) : Result :=
  let c := crcStepPoly (s.crcLo ++ s.crcHi) data
  complete (s.withAcc (c.extractLsb' 0 8, c.extractLsb' 8 8))

/-- CRC.BUF: table steps over the first `n` bytes of a buffer; the range check precedes every step (R109). -/
def execCrcBuf (buf : Buffer) (n : Nat) (s : State) : Result :=
  if n > bufferLength buf s then raise .bufferRange s
  else complete (s.withAcc (crcFold s.acc ((bufferBytes buf s).slice 0 n)))

/-- CRC.VERIFY: compare `CRC_HI ++ CRC_LO` with the expected value (R110). -/
def execCrcVerify (expect : Half) (s : State) : Result :=
  if s.crcHi ++ s.crcLo = expect then complete (s.withCrcMatch true)
  else raise .checksumMismatch (s.withCrcMatch false)

end Sys2Proof.Machine
end

