-- ==== Sys2Proof/Machine/Extract.lean ====
section
/-!
DEFINITION. The field extractor's command (spec/42_extract.md R163).
-/

namespace Sys2Proof.Machine

/-- The result of EXTRACT for a field that is in range: STR_LEN for a string, RAW and VALUE for an integer (R163). -/
def extractField (d : Word) (k : FieldKind) (s : State) : State :=
  match k with
  | .str => s.withStrLen (BitVec.ofNat 8 (trimmedLength s.rx (descOffset d) (descWidth d)))
  | k =>
    let raw := rawInteger k (payloadBytes s.rx (descOffset d) (fieldWidth d k))
    s.withInteger (BitVec.ofInt 32 raw)
      (BitVec.ofInt 64 (scaled s.round s.tempUnit raw (descScale d) (descTemp d)))

/-- EXTRACT: decode one descriptor's field from the validated payload; the checks in the order of R164. -/
def execExtract (idx : Nat) (s : State) : Result :=
  match selectDescriptor s idx with
  | none => raise .unknownSection s
  | some (d, k) =>
    if s.payloadValid = false then raise .noFrame s
    else if descOffset d + fieldWidth d k > s.plen then raise .decodeOutOfRange s
    else complete (extractField d k s)

end Sys2Proof.Machine
end

