-- ==== Sys2Proof/Machine/Frame.lean ====
section
/-!
DEFINITION. The frame codec's commands (spec/41_frame.md R132, R134, R136) and the RX_PUSH write (R133).
-/

namespace Sys2Proof.Machine

/-- RX.CLEAR: the length is 0; the bytes are not erased (R132). -/
def execRxClear (s : State) : Result := complete ((s.withRx s.rx 0).withPayloadValid false)

/-- The RX_PUSH write: append the low byte of `v`, or drop it and set RX_OVF when the buffer is full. It is not a
command: LAST_ERR and ERR_SEEN stay (R133). -/
def rxPush (v : Word) (s : State) : State :=
  let s' := s.withPayloadValid false
  if h : s.rxLen.val < Config.rxCap then
    s'.withRx (s.rx.write s.rxLen.val (v.extractLsb' 0 8)) ⟨s.rxLen.val + 1, Nat.succ_lt_succ h⟩
  else s'.withRxOvf

/-- The CRC bytes that a frame of `n` bytes should end in, in wire order (R134 step 5, R104). -/
def expectedCrc (s : State) (n : Nat) : Byte × Byte := wireOrder s.crcSwap (crcCompute (s.rx.slice 0 (n - 2)))

/-- The CRC bytes that a frame of `n` bytes does end in (R134 step 5). -/
def receivedCrc (s : State) (n : Nat) : Byte × Byte := (s.rx.read (n - 2), s.rx.read (n - 1))

/-- Step 5 and step 6 of FRAME.PARSE: record both CRC pairs, compare, accept (R134). -/
def parseChecksum (s : State) : Result :=
  let n := s.rxLen.val
  let c := expectedCrc s n
  let r := receivedCrc s n
  let s' := s.withFrameCrc (r.1 ++ r.2 ++ c.1 ++ c.2)
  if c ≠ r then raise .checksumMismatch s'
  else complete (s'.withPayloadValid true)

/-- Steps 2 to 4 of FRAME.PARSE: record the header, report a rejecting device, check the length (R134, R135). -/
def parseHeader (s : State) : Result :=
  let addr := s.rx.read 0
  let status := s.rx.read 1
  let plen := s.rx.read 2
  let s' := s.withFrameInfo (plen ++ status ++ addr)
  if status = 0x83#8 ∨ status = 0x86#8 then raise .deviceRejected (s'.withDevErr plen)
  else if s.rxLen.val ≠ plen.toNat + 5 then raise .lengthMismatch s'
  else parseChecksum s'

/-- FRAME.PARSE (R134). The CRC accumulator is neither read nor written. -/
def execFrameParse (s : State) : Result :=
  let s' := s.withPayloadValid false
  if s.rxLen.val < 5 then raise .tooShort s' else parseHeader s'

/-- The first six bytes of a read request (R130). -/
def requestHead (addr : Byte) (start count : Half) : List Byte :=
  [addr, 0x03#8, start.extractLsb' 8 8, start.extractLsb' 0 8, count.extractLsb' 8 8, count.extractLsb' 0 8]

/-- FRAME.REQ: build the read request in TX; the word count is ARG0[15:0] (R136). -/
def execFrameReq (addr : Byte) (start : Half) (s : State) : Result :=
  let tx6 := s.tx.writeList 0 (requestHead addr start (s.arg0.extractLsb' 0 16))
  let c := wireOrder s.crcSwap (crcCompute (tx6.slice 0 6))
  complete (s.withTx ((tx6.write 6 c.1).write 7 c.2) (Fin.last Config.txCap))

end Sys2Proof.Machine
end

