-- ==== Sys2Proof/Machine/Dispatch.lean ====
section
/-!
DEFINITION. Which meaning each command has: one arm per constructor of Instr.
-/

namespace Sys2Proof.Machine

def exec (i : Instr) (s : State) : Host.Outcome State Fault Refusal :=
  match i with
  | .nop => Sys2Proof.Machine.execNop s
  | .crcInit => Sys2Proof.Machine.execCrcInit s
  | .crcByte data => Sys2Proof.Machine.execCrcByte data s
  | .crcPoly data => Sys2Proof.Machine.execCrcPoly data s
  | .crcBuf buf n => Sys2Proof.Machine.execCrcBuf buf n s
  | .crcVerify expect => Sys2Proof.Machine.execCrcVerify expect s
  | .rxClear => Sys2Proof.Machine.execRxClear s
  | .frameParse => Sys2Proof.Machine.execFrameParse s
  | .frameReq addr start => Sys2Proof.Machine.execFrameReq addr start s
  | .extract idx => Sys2Proof.Machine.execExtract idx s
  | .decFlags src => Sys2Proof.Machine.execDecFlags src s
  | .decAlarm src idx => Sys2Proof.Machine.execDecAlarm src idx s

end Sys2Proof.Machine
end

