-- ==== Sys2Proof/Machine/Registers.lean ====
section
/-!
DEFINITION. The host register space (spec/10_state.md R20): which register stands at which offset, what a read of it
returns, and what a write of it that is not a command does.
-/

namespace Sys2Proof.Machine

/-- The registers and window words of the map (R20). -/
inductive HostReg where
  | id
  | ctrl
  | status
  | cmd
  | arg0
  | crcVal
  | crcStd
  | devErr
  | frameInfo
  | frameCrc
  | rxLen
  | rxPush
  | raw
  | valueLo
  | valueHi
  | strLen
  | flags
  | level
  | txLen
  | desc (i : Fin 64)
  | rxWin (k : Fin 65)
  | txWin (k : Fin 2)
  | unmapped
  deriving DecidableEq, Repr

/-- The nineteen registers at 0x000 to 0x048, in order of offset (R20). -/
def lowRegisters : List HostReg :=
  [.id, .ctrl, .status, .cmd, .arg0, .crcVal, .crcStd, .devErr, .frameInfo, .frameCrc, .rxLen, .rxPush, .raw,
    .valueLo, .valueHi, .strLen, .flags, .level, .txLen]

/-- The register at word index `q`, that is at offset `4 q` (R20, R43). -/
def registerAt (q : Nat) : HostReg :=
  if q < 0x40 then lowRegisters.getD q .unmapped
  else if h : q - 0x40 < 64 then .desc ⟨q - 0x40, h⟩
  else if q < 0x100 then .unmapped
  else if h : q - 0x100 < 65 then .rxWin ⟨q - 0x100, h⟩
  else if q < 0x180 then .unmapped
  else if h : q - 0x180 < 2 then .txWin ⟨q - 0x180, h⟩
  else .unmapped

/-- The offset of a register (R20); an unmapped word has none of its own. -/
def HostReg.offset : HostReg → Option (BitVec 12)
  | .id => some 0x000#12
  | .ctrl => some 0x004#12
  | .status => some 0x008#12
  | .cmd => some 0x00C#12
  | .arg0 => some 0x010#12
  | .crcVal => some 0x014#12
  | .crcStd => some 0x018#12
  | .devErr => some 0x01C#12
  | .frameInfo => some 0x020#12
  | .frameCrc => some 0x024#12
  | .rxLen => some 0x028#12
  | .rxPush => some 0x02C#12
  | .raw => some 0x030#12
  | .valueLo => some 0x034#12
  | .valueHi => some 0x038#12
  | .strLen => some 0x03C#12
  | .flags => some 0x040#12
  | .level => some 0x044#12
  | .txLen => some 0x048#12
  | .desc i => some (BitVec.ofNat 12 (0x100 + 4 * i.val))
  | .rxWin k => some (BitVec.ofNat 12 (0x400 + 4 * k.val))
  | .txWin k => some (BitVec.ofNat 12 (0x600 + 4 * k.val))
  | .unmapped => none

/-- The byte of window slot `j`: buffer byte `j`, or 0 at or past the length (R40, R41). -/
def windowByte (m : Memory) (len j : Nat) : Byte := if j < len then m.read j else 0x00#8

/-- Window word `k`: four buffer bytes, the lowest index in bits 7:0 (R40, R41, R61). -/
def windowWord (m : Memory) (len k : Nat) : Word :=
  windowByte m len (4 * k + 3) ++ windowByte m len (4 * k + 2) ++ windowByte m len (4 * k + 1) ++
    windowByte m len (4 * k)

/-- What a host read of a register returns (R20 to R43). -/
def readReg (s : State) : HostReg → Word
  | .id => Config.idValue
  | .ctrl => s.ctrlWord
  | .status => s.statusWord
  | .cmd => 0#32
  | .arg0 => s.arg0
  | .crcVal => (s.crcHi ++ s.crcLo).zeroExtend 32
  | .crcStd => (s.crcLo ++ s.crcHi).zeroExtend 32
  | .devErr => s.devErr.zeroExtend 32
  | .frameInfo => s.frameInfo.zeroExtend 32
  | .frameCrc => s.frameCrc
  | .rxLen => BitVec.ofNat 32 s.rxLen.val
  | .rxPush => 0#32
  | .raw => s.raw
  | .valueLo => s.value.extractLsb' 0 32
  | .valueHi => s.value.extractLsb' 32 32
  | .strLen => s.strLen.zeroExtend 32
  | .flags => s.flags.zeroExtend 32
  | .level => s.level.zeroExtend 32
  | .txLen => BitVec.ofNat 32 s.txLen.val
  | .desc i => s.desc[i.val]
  | .rxWin k => windowWord s.rx s.rxLen.val k.val
  | .txWin k => windowWord s.tx s.txLen.val k.val
  | .unmapped => 0#32

/-- The bits of a descriptor word that are stored: all but the reserved [30:23] (R39). -/
abbrev descMask : Word := 0x807FFFFF#32

/-- A host write to DESC[i] (R39). -/
def writeDesc (i : Fin 64) (v : Word) (s : State) : State := s.withDesc (s.desc.set i.val (v &&& descMask))

/-- What a host write to a register other than CMD does. A read-only or unmapped register ignores it (R20, R43). -/
def writeReg (r : HostReg) (v : Word) (s : State) : State :=
  match r with
  | .ctrl => s.writeCtrl v
  | .status => s.clearSticky v
  | .arg0 => s.withArg0 v
  | .rxPush => rxPush v s
  | .desc i => writeDesc i v s
  | .id | .cmd | .crcVal | .crcStd | .devErr | .frameInfo | .frameCrc | .rxLen | .raw | .valueLo | .valueHi
  | .strLen | .flags | .level | .txLen | .rxWin _ | .txWin _ | .unmapped => s

end Sys2Proof.Machine
end

