-- ==== Sys2Proof/Machine/Bus.lean ====
section
/-!
DEFINITION. One bus event: the host's reads and writes (spec/20_memory.md R62, R66, R67), the command that a write to
CMD performs whole (spec/30_encoding.md R86, spec/70_reset_and_hazards.md R252), and the reset (R250).
-/

namespace Sys2Proof.Machine

/-- A host write of `w` to CMD: decode and perform the command, or raise ILLEGAL_COMMAND (R86, R83). -/
def command (w : Word) (s : State) : Result :=
  match decode w with
  | .ok i => exec i s
  | .error _ => raise .illegalCommand s

/-- An access the block's interface has: 32 bits at a multiple of 4 (R62). -/
def inInterface (width : Nat) (offset : BitVec 12) : Bool := width == 4 && offset.toNat % 4 == 0

/-- The register an aligned offset selects (R20). -/
def registerOf (offset : BitVec 12) : HostReg := registerAt (offset.toNat / 4)

/-- A host read: its value is appended to what the host has read, and the block does not change (R67). -/
def hostRead (r : HostReg) (s : State) : State := s.withReads (s.reads ++ [readReg s r])

/-- A host write: to CMD a command, to another register its side effect (R24, R67). -/
def hostWrite (r : HostReg) (v : Word) (s : State) : Result :=
  if r = .cmd then command v s else .next (writeReg r v s)

/-- A reset that coincides with a write of `w` to CMD falls before the command or after it; the platform chooses
(R250, I8; log entry 7). -/
def resetWithCommand (w : Word) (s : State) : Result :=
  let s' := s.withChoices (s.choices + 1)
  if Config.resetComesFirst s.choices then command w s'.afterReset
  else
    match command w s' with
    | .next t => .next t.afterReset
    | .fault r => .fault r
    | .refused r => .refused r

/-- What one bus event does. -/
def performEvent (e : BusEvent) (s : State) : Result :=
  match e with
  | .read width offset =>
    if inInterface width offset then .next (hostRead (registerOf offset) s) else .refused .outsideInterface
  | .write width offset v =>
    if inInterface width offset then hostWrite (registerOf offset) v s else .refused .outsideInterface
  | .reset => .next s.afterReset
  | .resetDuringCommand w => resetWithCommand w s
  | .busError => .refused .busError

end Sys2Proof.Machine
end

