-- ==== Sys2Proof/Machine/Step.lean ====
section
/-!
DEFINITION. One step: the next bus event (spec/00_scope.md R6: one host step per bus access). SBCODEC fetches nothing
(R12, R45, R72); the next command is the next pending write to CMD.
-/

namespace Sys2Proof.Machine

/-- One step. With no event pending the block waits and nothing changes (R250; log entry 3). -/
def step (s : State) : Host.Outcome State Fault Refusal :=
  match s.pending with
  | [] => .next s
  | e :: rest => performEvent e (s.withPending rest)

/-- `s` with a host write of the instruction's word to CMD as the very next event (log entry 2). -/
def State.withFetchWord (s : State) (nbits w : Nat) : State :=
  s.withPending (.write 4 0x00C#12 (BitVec.ofNat 32 (w % 2 ^ nbits)) :: s.pending)

end Sys2Proof.Machine
end

