-- ==== Sys2Proof/Machine/HostProgram.lean ====
section
/-!
DEFINITION. Host programs: the assembler's statements and pseudo-instructions (spec/30_encoding.md R87, R88) as the
bus events they stand for, the sequence a host performs for a section (spec/70_reset_and_hazards.md R254), and what a
run lets the host observe (R256). The block enforces none of this; a program is placed in State.pending.
-/

namespace Sys2Proof.Machine

/-- The KIND code of a descriptor (R84). -/
def FieldKind.code : FieldKind → Nat
  | .u16 => 0
  | .s16 => 1
  | .u32 => 2
  | .s32 => 3
  | .str => 4

/-- The operands of LDDESC (R88), omitted ones 0. -/
structure DescFields where
  kind : FieldKind
  offset : Nat
  scale : Nat := 0
  temp : Nat := 0
  width : Nat := 0
  deriving DecidableEq, Repr

/-- `0x8000_0000 | temp<<22 | scale<<20 | kind<<16 | width<<8 | off` (R88). -/
def DescFields.word (f : DescFields) : Word :=
  0x80000000#32 ||| (BitVec.ofNat 32 f.temp <<< 22) ||| (BitVec.ofNat 32 f.scale <<< 20) |||
    (BitVec.ofNat 32 f.kind.code <<< 16) ||| (BitVec.ofNat 32 f.width <<< 8) ||| BitVec.ofNat 32 f.offset

/-- Every operand in its field's range (R84, R87). -/
def DescFields.wf (f : DescFields) : Bool :=
  decide (f.offset < 256) && decide (f.scale < 4) && decide (f.temp < 2) && decide (f.width < 256)

/-- A statement of a host program (R87, R88). -/
inductive Stmt where
  | wr (r : HostReg) (v : Word)
  | rd (r : HostReg)
  | cmd (i : Instr)
  | push (bs : List Byte)
  | recv (bs : List Byte)
  | req (addr : Byte) (start : Half) (count : Word)
  | crcOver (buf : Buffer) (n : Nat)
  | lddesc (i : Nat) (f : DescFields)
  | flagsOf (w : Word)
  | alarmOf (w : Word) (idx : Nat)
  deriving DecidableEq, Repr

/-- A statement the assembler accepts: registers of the map, operands in range (R87). -/
def Stmt.assembles : Stmt → Bool
  | .wr r _ => r.offset.isSome
  | .rd r => r.offset.isSome
  | .cmd i => i.wellFormed
  | .push _ => true
  | .recv _ => true
  | .req _ _ _ => true
  | .crcOver _ n => decide (n < 2 ^ 16)
  | .lddesc i f => decide (i < Config.descCount) && f.wf
  | .flagsOf _ => true
  | .alarmOf _ idx => decide (idx < 16)

/-- `WR CMD, <encoding>` (R87). -/
def cmdWrite (i : Instr) : BusEvent := .write 4 0x00C#12 (encode i)

/-- `WR RX_PUSH, b` (R88). -/
def pushWrite (b : Byte) : BusEvent := .write 4 0x02C#12 (b.zeroExtend 32)

/-- `WR ARG0, v` (R88). -/
def arg0Write (v : Word) : BusEvent := .write 4 0x010#12 v

/-- The bus events of a statement, in order (R87, R88). -/
def Stmt.events : Stmt → List BusEvent
  | .wr r v => (r.offset.map fun o => BusEvent.write 4 o v).toList
  | .rd r => (r.offset.map fun o => BusEvent.read 4 o).toList
  | .cmd i => [cmdWrite i]
  | .push bs => bs.map pushWrite
  | .recv bs => cmdWrite .rxClear :: (bs.map pushWrite ++ [cmdWrite .frameParse])
  | .req addr start count => [arg0Write count, cmdWrite (.frameReq addr start)]
  | .crcOver buf n => [cmdWrite .crcInit, cmdWrite (.crcBuf buf n)]
  | .lddesc i f => [.write 4 (BitVec.ofNat 12 (0x100 + 4 * i)) f.word]
  | .flagsOf w => [arg0Write w, cmdWrite (.decFlags .arg0)]
  | .alarmOf w idx => [arg0Write w, cmdWrite (.decAlarm .arg0 idx)]

/-- The bus events of a host program. -/
def programEvents (p : List Stmt) : List BusEvent := p.flatMap Stmt.events

/-- R254 steps 1 and 2, the part of them on this bus: build a section's request and read it out of TX. -/
def sectionRequest (addr : Byte) (sec : Config.Section) : List Stmt :=
  [.req addr sec.startRegister (sec.wordCount.zeroExtend 32), .rd (.txWin 0), .rd (.txWin 1)]

/-- R254 step 3: receive the response and validate it, then read STATUS. -/
def sectionReceive (response : List Byte) : List Stmt := [.recv response, .rd .status]

/-- R254 step 5: extract descriptor `i` and read its integer result. -/
def sectionField (i : Nat) : List Stmt := [.cmd (.extract i), .rd .status, .rd .valueLo, .rd .valueHi, .rd .raw]

/-- What a finished run lets the host observe: the values it read, and the final state as host reads return it
(R256). -/
def State.observation (s : State) : List Word × List Word :=
  (s.reads, (List.range 1024).map fun q => readReg s (registerAt q))

end Sys2Proof.Machine
end

