-- ==== Sys2Proof/Machine/HostView.lean ====
section
/-!
DEFINITION. The names the spec gives the block's results, as a host attaches them: response status values
(spec/41_frame.md R131), device error codes (R135), status-word kinds (spec/43_bitfield.md R190), alarm levels (R192)
and alarm word layouts (R194). No command depends on them. OPEN parameters are arguments (spec/00_scope.md R5).
-/

namespace Sys2Proof.Machine

/-- The status byte of a response (R131). -/
inductive ResponseStatus where
  | readOk
  | writeOk
  | readError
  | writeError
  | unnamed
  deriving DecidableEq, Repr

/-- The status values the source names (R131). -/
def responseStatus (b : Byte) : ResponseStatus :=
  if b = 0x03#8 then .readOk
  else if b = 0x06#8 then .writeOk
  else if b = 0x83#8 then .readError
  else if b = 0x86#8 then .writeError
  else .unnamed

/-- Which status values FRAME.PARSE treats as DEVICE_REJECTED (R131). -/
def ResponseStatus.rejects : ResponseStatus → Bool
  | .readOk => false
  | .writeOk => false
  | .readError => true
  | .writeError => true
  | .unnamed => false

/-- The one device error code with a name, ADDRESS_OR_LENGTH_WRONG, under status 0x83 (R135). -/
def addressOrLengthWrong (s : State) : Bool := s.stat == 0x83#8 && s.devErr == 0x02#8

/-- The 16-bit status-word kinds that DEC.FLAGS decodes (R190). -/
inductive StatusKind where
  | status1
  | status2
  | status3
  | chargeStatus
  deriving DecidableEq, Repr

/-- The bit of a status word at which named index `i` stands (R190). -/
def bitOfNamedIndex (i : Nat) : Nat := 15 - i

/-- status3: the named index of cell `c`, 1 to 16 (R190). -/
def namedIndexOfCell (c : Nat) : Nat := c - 1

/-- The named indices of a kind that carry a named flag; for charge-status the OPEN parameter says which (R190). -/
def namedIndices (p : Config.HostParams) : StatusKind → List Nat
  | .status1 => List.range 16
  | .status2 => List.range 16
  | .status3 => List.range 16
  | .chargeStatus => p.chargeFlagBits

/-- The flags of a kind, in the order of its name table, read from FLAGS (R190, R191). -/
def namedFlags (p : Config.HostParams) (k : StatusKind) (flags : BitVec 16) : List Bool :=
  (namedIndices p k).map flags.getLsbD

/-- AlarmLevel (R192). -/
inductive AlarmLevel where
  | none
  | below
  | above
  | other
  deriving DecidableEq, Repr

/-- The codes of AlarmLevel (R192). -/
def AlarmLevel.code : AlarmLevel → BitVec 2
  | .none => 0b00#2
  | .below => 0b01#2
  | .above => 0b10#2
  | .other => 0b11#2

/-- The level that LEVEL holds (R192). -/
def alarmLevel (c : BitVec 2) : AlarmLevel :=
  if c = 0b00#2 then .none else if c = 0b01#2 then .below else if c = 0b10#2 then .above else .other

/-- The alarm words (R194). -/
inductive AlarmWord where
  | cellVoltage
  | cellTemperature
  | otherAlarms
  deriving DecidableEq, Repr

/-- The number of fields that carry an alarm; the rest are reserved and decoded all the same (R194). -/
def AlarmWord.fields : AlarmWord → Nat
  | .cellVoltage => 16
  | .cellTemperature => 16
  | .otherAlarms => 7

/-- The field index of cell `c`, 1 to 16 (R194). -/
def alarmIndexOfCell (c : Nat) : Nat := c - 1

end Sys2Proof.Machine
end

