-- ==== Sys2Proof/Safety.lean ====
section
/-!
DEFINITION. The terms the claims use: the invariant of the machine, which states a host cannot tell apart, what a
command sequence does, and the illegal words of an opcode.
-/

namespace Sys2Proof.Machine

/-- The RX buffer holds a frame that FRAME.PARSE accepts under one of the two wire orders, and FRAME_INFO and
FRAME_CRC describe it (spec/41_frame.md R134). CTRL.CRC_SWAP may have been written since. -/
structure State.HoldsAcceptedFrame (s : State) : Prop where
  length : s.rxLen.val = s.plen + 5
  info : s.frameInfo = s.rx.read 2 ++ s.rx.read 1 ++ s.rx.read 0
  status : s.stat ≠ 0x83#8 ∧ s.stat ≠ 0x86#8
  checksum : ∃ swap, wireOrder swap (crcCompute (s.rx.slice 0 (s.rxLen.val - 2))) = receivedCrc s s.rxLen.val
  crcs : s.frameCrc = (receivedCrc s s.rxLen.val).1 ++ (receivedCrc s s.rxLen.val).2 ++
    (receivedCrc s s.rxLen.val).1 ++ (receivedCrc s s.rxLen.val).2

/-- The TX buffer holds a read request whose CRC is right under one of the two wire orders (R130, R136). -/
structure State.HoldsRequest (s : State) : Prop where
  function : s.tx.read 1 = 0x03#8
  checksum : ∃ swap, wireOrder swap (crcCompute (s.tx.slice 0 6)) = (s.tx.read 6, s.tx.read 7)

/-- What holds of every state a run reaches. -/
structure State.Inv (s : State) : Prop where
  /-- RX is canonical and has RX_CAP cells (spec/10_state.md R31). -/
  rxCanonical : s.rx.wf = true
  rxCells : s.rx.below Config.rxCap = true
  /-- TX is canonical and has TX_CAP cells (R38). -/
  txCanonical : s.tx.wf = true
  txCells : s.tx.below Config.txCap = true
  /-- TX_LEN is 0 or 8 (R38). -/
  txLength : s.txLen.val = 0 ∨ s.txLen.val = 8
  /-- The reserved bits [30:23] of every descriptor read 0 (R39). -/
  descReserved : ∀ i : Fin 64, (s.desc[i.val]).extractLsb' 23 8 = 0#8
  /-- PAYLOAD_VALID is 1 only while the buffer holds an accepted frame (R27). -/
  accepted : s.payloadValid = true → s.HoldsAcceptedFrame
  /-- A nonempty TX holds a request (R38: only FRAME.REQ writes TX). -/
  request : s.txLen.val = 8 → s.HoldsRequest

/-- The two states differ at most in the buffer bytes at or past RX_LEN and TX_LEN (R47, I1). -/
structure State.SameVisible (s t : State) : Prop where
  others : { s with rx := t.rx, tx := t.tx } = t
  rxBytes : ∀ k, k < s.rxLen.val → s.rx.read k = t.rx.read k
  txBytes : ∀ k, k < s.txLen.val → s.tx.read k = t.tx.read k

/-- Commands one after another. -/
def runCommands : List Instr → State → Result
  | [], s => .next s
  | i :: is, s =>
    match exec i s with
    | .next t => runCommands is t
    | .fault r => .fault r
    | .refused r => .refused r

/-- `k` steps, stopping at the first that answers no next state. -/
def runSteps : Nat → State → Result
  | 0, s => .next s
  | k + 1, s =>
    match step s with
    | .next t => runSteps k t
    | .fault r => .fault r
    | .refused r => .refused r

/-- A word of opcode `opc` with one of the bits `zeroBits` set raises ILLEGAL_COMMAND, with no other effect
(spec/30_encoding.md R83). -/
def IllegalWhenSet (opc : BitVec 8) (zeroBits : Word) : Prop :=
  ∀ (s : State) (w : Word), fieldOpc w = opc → w &&& zeroBits ≠ 0#32 →
    command w s = .next { s with lastErr := some .illegalCommand, errSeen := true }

/-- The errors a legal command can raise (spec/60_exceptions.md R221). -/
def raisable : Instr → List CmdError
  | .nop => []
  | .crcInit => []
  | .crcByte _ => []
  | .crcPoly _ => []
  | .crcBuf _ _ => [.bufferRange]
  | .crcVerify _ => [.checksumMismatch]
  | .rxClear => []
  | .frameParse => [.tooShort, .deviceRejected, .lengthMismatch, .checksumMismatch]
  | .frameReq _ _ => []
  | .extract _ => [.unknownSection, .noFrame, .decodeOutOfRange]
  | .decFlags _ => []
  | .decAlarm _ _ => []

/-- A response frame (spec/41_frame.md R131), its CRC in the wire order `swap`. -/
def responseFrame (swap : Bool) (addr stat : Byte) (payload : List Byte) : List Byte :=
  let body := addr :: stat :: BitVec.ofNat 8 payload.length :: payload
  let c := wireOrder swap (crcCompute body)
  body ++ [c.1, c.2]

end Sys2Proof.Machine
end

