-- ==== Sys2Proof/Certificates/Slice0/Obligations.lean ====
section
/-!
DEFINITION. The statements for the provers. Each docstring names the rule of spec/ it formalises; OBLIGATIONS.json
lists them. A statement about a command gives the command's whole next state, so it is the command's frame as well:
every field it does not name, and every byte of memory, is as before.
-/

open Sys2Proof Sys2Proof.Machine

/-! ### Encoding -/

/-- Decoding the word of a well-formed command gives the command back (R80, R81, R86). -/
def Obligations.DecodeOfEncode : Prop :=
  ∀ i : Instr, i.wellFormed = true → decode (encode i) = .ok i

/-- A word that decodes is the word of the command it decodes to: no bit of a legal word is ignored (R81, R83). -/
def Obligations.EncodeOfDecode : Prop :=
  ∀ (w : Word) (i : Instr), decode w = .ok i → i.wellFormed = true ∧ encode i = w

/-- R82: the opcode map, and a word selects a command exactly when `(w & mask) == match`; an unlisted opcode is
reserved. -/
def Obligations.WordSelectsRowByMaskAndMatch : Prop :=
  opcodeMap =
    [⟨"NOP", 0x00000000#32, 0xFFFFFFFF#32⟩, ⟨"CRC.INIT", 0x00000001#32, 0xFFFFFFFF#32⟩,
      ⟨"CRC.BYTE", 0x00000002#32, 0xFFFF00FF#32⟩, ⟨"CRC.POLY", 0x00000003#32, 0xFFFF00FF#32⟩,
      ⟨"CRC.BUF", 0x00000004#32, 0x0000FEFF#32⟩, ⟨"CRC.VERIFY", 0x00000005#32, 0x0000FFFF#32⟩,
      ⟨"RX.CLEAR", 0x00000010#32, 0xFFFFFFFF#32⟩, ⟨"FRAME.PARSE", 0x00000011#32, 0xFFFFFFFF#32⟩,
      ⟨"FRAME.REQ", 0x00000012#32, 0x000000FF#32⟩, ⟨"EXTRACT", 0x00000020#32, 0xFFFF00FF#32⟩,
      ⟨"DEC.FLAGS", 0x00000030#32, 0xFFFFFEFF#32⟩, ⟨"DEC.ALARM", 0x00000031#32, 0xFFFFE0FF#32⟩] ∧
  (∀ (w : Word) (r : OpcodeRow), r ∈ opcodeMap →
    (w &&& r.mask = r.pattern ↔ ∃ i, decode w = .ok i ∧ i.row = r)) ∧
  (∀ w : Word, (∀ r ∈ opcodeMap, fieldOpc w ≠ r.pattern.extractLsb' 0 8) → decode w = .error .reservedOpcode)

/-- R83: a reserved opcode or a nonzero must-be-zero bit raises ILLEGAL_COMMAND and changes nothing but LAST_ERR and
ERR_SEEN; every other word is a command, and no command raises ILLEGAL_COMMAND. -/
def Obligations.IllegalWordsRaiseIllegalCommand : Prop :=
  ∀ (s : State) (w : Word),
    ((0x06 ≤ w.toNat % 256 ∧ w.toNat % 256 ≤ 0x0F) ∨ (0x13 ≤ w.toNat % 256 ∧ w.toNat % 256 ≤ 0x1F) ∨
        (0x21 ≤ w.toNat % 256 ∧ w.toNat % 256 ≤ 0x2F) ∨ 0x32 ≤ w.toNat % 256 ∨
        (∃ r ∈ opcodeMap, w.toNat % 256 = r.pattern.toNat % 256 ∧ w &&& r.mask ≠ r.pattern) →
      command w s = .next { s with lastErr := some .illegalCommand, errSeen := true }) ∧
    ((∃ r ∈ opcodeMap, w &&& r.mask = r.pattern) →
      ∃ t, command w s = .next t ∧ t.lastErr ≠ some .illegalCommand)

/-- R89: the encoding examples; and words written out from the encodings of R80 and R81, one or more a family, decode
to the commands they stand for (a sanity statement). -/
def Obligations.EncodingExamplesHold : Prop :=
  encode .nop = 0x00000000#32 ∧ encode .crcInit = 0x00000001#32 ∧ encode (.crcByte 0xF7#8) = 0x0000F702#32 ∧
  encode (.crcPoly 0xF7#8) = 0x0000F703#32 ∧ encode (.crcBuf .tx 6) = 0x00060104#32 ∧
  encode (.crcBuf .rx 13) = 0x000D0004#32 ∧ encode (.crcVerify 0x75FD#16) = 0x75FD0005#32 ∧
  encode .rxClear = 0x00000010#32 ∧ encode .frameParse = 0x00000011#32 ∧
  encode (.frameReq 0xF7#8 5042#16) = 0x13B2F712#32 ∧ encode (.extract 3) = 0x00000320#32 ∧
  encode (.decFlags .raw) = 0x00000130#32 ∧ encode (.decFlags .arg0) = 0x00000030#32 ∧
  encode (.decAlarm .raw 5) = 0x00001531#32 ∧ encode (.decAlarm .arg0 5) = 0x00000531#32 ∧
  DescFields.word ⟨.u16, 0, 2, 0, 0⟩ = 0x80200000#32 ∧ DescFields.word ⟨.s16, 2, 2, 0, 0⟩ = 0x80210002#32 ∧
  DescFields.word ⟨.u32, 4, 3, 0, 0⟩ = 0x80320004#32 ∧ DescFields.word ⟨.u16, 8, 1, 1, 0⟩ = 0x80500008#32 ∧
  DescFields.word ⟨.str, 0, 0, 0, 8⟩ = 0x80040800#32 ∧
  decode 0x00000006#32 = .error .reservedOpcode ∧ decode 0x00010001#32 = .error .mustBeZeroBit ∧
  decode 0x0000F702#32 = .ok (.crcByte 0xF7#8) ∧ decode 0x00060104#32 = .ok (.crcBuf .tx 6) ∧
  decode 0x75FD0005#32 = .ok (.crcVerify 0x75FD#16) ∧ decode 0x13B2F712#32 = .ok (.frameReq 0xF7#8 0x13B2#16) ∧
  decode 0x00000011#32 = .ok .frameParse ∧ decode 0x0000FF20#32 = .ok (.extract 255) ∧
  decode 0x00000130#32 = .ok (.decFlags .raw) ∧ decode 0x00001F31#32 = .ok (.decAlarm .raw 15) ∧
  decode 0x00000F31#32 = .ok (.decAlarm .arg0 15) ∧ decode 0x00000000#32 = .ok .nop ∧
  (∀ s : State, command 0x00000006#32 s = .next { s with lastErr := some .illegalCommand, errSeen := true } ∧
    command 0x00010001#32 s = .next { s with lastErr := some .illegalCommand, errSeen := true })

/-- A step on a pending write to CMD runs the decoded command, whole, on the state with that write consumed, or
raises ILLEGAL_COMMAND (R24, R86, R252). The list of pending events is the model's own (log entry 1). -/
def Obligations.StepRunsDecodedCommand : Prop :=
  ∀ (s : State) (rest : List BusEvent) (w : Word), s.pending = .write 4 0x00C#12 w :: rest →
    (∀ i, decode w = .ok i → step s = exec i { s with pending := rest }) ∧
    (∀ e, decode w = .error e →
      step s = .next { s with pending := rest, lastErr := some .illegalCommand, errSeen := true })

/-! ### Control -/

/-- R210: NOP only completes. -/
def Obligations.NopOnlyCompletes : Prop :=
  (∀ s : State, exec .nop s = .next { s with lastErr := none }) ∧
  decode 0x00000000#32 = .ok .nop ∧ IllegalWhenSet 0x00#8 0xFFFFFF00#32

/-! ### CRC engine -/

/-- R106: CRC.INIT seeds the accumulator. -/
def Obligations.CrcInitSeedsAccumulator : Prop :=
  (∀ s : State, exec .crcInit s = .next { s with crcHi := 0xFF#8, crcLo := 0xFF#8, lastErr := none }) ∧
  decode 0x00000001#32 = .ok .crcInit ∧ IllegalWhenSet 0x01#8 0xFFFFFF00#32

/-- R107: CRC.BYTE is one table step. -/
def Obligations.CrcByteIsOneTableStep : Prop :=
  (∀ (data : Byte) (s : State), exec (.crcByte data) s =
    .next { s with
      crcHi := s.crcLo ^^^ tblHi (s.crcHi ^^^ data)
      crcLo := tblLo (s.crcHi ^^^ data)
      lastErr := none }) ∧
  (∀ data : Byte, decode (0#16 ++ data ++ 0x02#8) = .ok (.crcByte data)) ∧ IllegalWhenSet 0x02#8 0xFFFF0000#32 ∧
  crcStepTbl 0xFF#8 0xFF#8 0xFF#8 = (0xFF#8, 0x00#8) ∧ crcStepTbl 0xFF#8 0xFF#8 0x00#8 = (0xBF#8, 0x40#8)

/-- R108: CRC.POLY is one bit-serial step on `CRC_LO ++ CRC_HI`, and leaves exactly the state that CRC.BYTE with the
same DATA would. -/
def Obligations.CrcPolyIsOneBitSerialStep : Prop :=
  (∀ (data : Byte) (s : State), exec (.crcPoly data) s =
    .next { s with
      crcHi := (crcStepPoly (s.crcLo ++ s.crcHi) data).extractLsb' 0 8
      crcLo := (crcStepPoly (s.crcLo ++ s.crcHi) data).extractLsb' 8 8
      lastErr := none }) ∧
  (∀ (data : Byte) (s : State), exec (.crcPoly data) s = exec (.crcByte data) s) ∧
  (∀ data : Byte, decode (0#16 ++ data ++ 0x03#8) = .ok (.crcPoly data)) ∧ IllegalWhenSet 0x03#8 0xFFFF0000#32 ∧
  crcStepPoly 0xFFFF#16 0x01#8 = 0x807E#16

/-- R102: the tables are what the bit-serial step generates. -/
def Obligations.CrcTablesFollowFromPolynomial : Prop :=
  ∀ i : Byte, tblHi i = (crcStepPoly (i.zeroExtend 16) 0#8).extractLsb' 0 8 ∧
    tblLo i = (crcStepPoly (i.zeroExtend 16) 0#8).extractLsb' 8 8

/-- R103: the table datapath and the bit-serial datapath compute the same function, byte by byte and over every byte
sequence; CRC.BYTE and CRC.POLY may be mixed freely. -/
def Obligations.CrcDatapathsAgree : Prop :=
  (∀ hi lo b : Byte, crcStepTbl hi lo b =
    ((crcStepPoly (lo ++ hi) b).extractLsb' 0 8, (crcStepPoly (lo ++ hi) b).extractLsb' 8 8)) ∧
  (∀ bs : List Byte, (crcCompute bs).2 ++ (crcCompute bs).1 = bs.foldl crcStepPoly 0xFFFF#16) ∧
  (∀ (data : Byte) (s : State), exec (.crcPoly data) s = exec (.crcByte data) s)

/-- R109: CRC.BUF folds the first N bytes of the selected buffer into the accumulator, or raises BUFFER_RANGE with
the accumulator unchanged. -/
def Obligations.CrcBufFoldsPrefix : Prop :=
  (∀ (n : Nat) (s : State), n ≤ s.rxLen.val → exec (.crcBuf .rx n) s =
    .next { s with
      crcHi := (crcFold (s.crcHi, s.crcLo) ((List.range n).map s.rx.read)).1
      crcLo := (crcFold (s.crcHi, s.crcLo) ((List.range n).map s.rx.read)).2
      lastErr := none }) ∧
  (∀ (n : Nat) (s : State), n ≤ s.txLen.val → exec (.crcBuf .tx n) s =
    .next { s with
      crcHi := (crcFold (s.crcHi, s.crcLo) ((List.range n).map s.tx.read)).1
      crcLo := (crcFold (s.crcHi, s.crcLo) ((List.range n).map s.tx.read)).2
      lastErr := none }) ∧
  (∀ (n : Nat) (s : State), s.rxLen.val < n →
    exec (.crcBuf .rx n) s = .next { s with lastErr := some .bufferRange, errSeen := true }) ∧
  (∀ (n : Nat) (s : State), s.txLen.val < n →
    exec (.crcBuf .tx n) s = .next { s with lastErr := some .bufferRange, errSeen := true }) ∧
  (∀ n : BitVec 16, decode (n ++ 0x00#8 ++ 0x04#8) = .ok (.crcBuf .rx n.toNat) ∧
    decode (n ++ 0x01#8 ++ 0x04#8) = .ok (.crcBuf .tx n.toNat)) ∧ IllegalWhenSet 0x04#8 0x0000FE00#32 ∧
  crcCompute [0xF7#8, 0x03#8, 0x13#8, 0xB2#8, 0x00#8, 0x06#8] = (0x75#8, 0xFD#8)

/-- CRC.BUF over a prefix leaves what the same bytes one by one through CRC.BYTE leave (R100, R107, R109). -/
def Obligations.CrcBufEqualsBytesOneByOne : Prop :=
  (∀ (n : Nat) (s : State), n ≤ s.rxLen.val → exec (.crcBuf .rx n) { s with lastErr := none } =
    runCommands ((List.range n).map fun k => Instr.crcByte (s.rx.read k)) { s with lastErr := none }) ∧
  (∀ (n : Nat) (s : State), n ≤ s.txLen.val → exec (.crcBuf .tx n) { s with lastErr := none } =
    runCommands ((List.range n).map fun k => Instr.crcByte (s.tx.read k)) { s with lastErr := none })

/-- R110: CRC.VERIFY compares the accumulator with EXPECT; CRC_MATCH holds the answer, and a mismatch also raises
CHECKSUM_MISMATCH. -/
def Obligations.CrcVerifyComparesAccumulator : Prop :=
  (∀ s : State, exec (.crcVerify (s.crcHi ++ s.crcLo)) s = .next { s with crcMatch := true, lastErr := none }) ∧
  (∀ (expect : Half) (s : State), expect ≠ s.crcHi ++ s.crcLo → exec (.crcVerify expect) s =
    .next { s with crcMatch := false, lastErr := some .checksumMismatch, errSeen := true }) ∧
  (∀ expect : BitVec 16, decode (expect ++ 0x0005#16) = .ok (.crcVerify expect)) ∧
  IllegalWhenSet 0x05#8 0x0000FF00#32

/-- `verify(b, compute(b))` is true: CRC.INIT, the bytes of b through CRC.BYTE and then CRC.VERIFY with the computed
value succeed from every state, and every other expected value fails (R105, R110). -/
def Obligations.VerifyAcceptsExactlyTheComputedCrc : Prop :=
  ∀ (bs : List Byte) (expect : Half) (s : State),
    ∃ t, runCommands (.crcInit :: bs.map Instr.crcByte ++ [.crcVerify expect]) s = .next t ∧
      (t.crcMatch = true ↔ expect = (crcCompute bs).1 ++ (crcCompute bs).2) ∧
      (t.lastErr = none ↔ expect = (crcCompute bs).1 ++ (crcCompute bs).2) ∧
      (t.crcHi, t.crcLo) = crcCompute bs

/-- Changing one byte of a byte sequence, at any place and in any of its bits, changes the computed CRC. R105's law
about a single-bit flip is the case of one bit; R137 rests on it too. -/
def Obligations.OneChangedByteChangesCrc : Prop :=
  ∀ (pre post : List Byte) (b b' : Byte), b ≠ b' →
    crcCompute (pre ++ b :: post) ≠ crcCompute (pre ++ b' :: post)

/-! ### Frame codec -/

/-- RX.CLEAR empties the buffer; every RXWIN word then reads 0 (R132). That the bytes it hides keep their values is the
model's choice among those I1 allows (log entry 6). -/
def Obligations.RxClearEmptiesBuffer : Prop :=
  (∀ s : State, exec .rxClear s = .next { s with rxLen := 0, payloadValid := false, lastErr := none }) ∧
  (∀ (s t : State) (k : Fin 65), exec .rxClear s = .next t → readReg t (.rxWin k) = 0#32) ∧
  decode 0x00000010#32 = .ok .rxClear ∧ IllegalWhenSet 0x10#8 0xFFFFFF00#32

/-- R133: a host write to RX_PUSH appends its low byte, or drops it and sets RX_OVF when the buffer is full. -/
def Obligations.RxPushAppendsOrOverflows : Prop :=
  ∀ (s : State) (rest : List BusEvent) (v : Word), s.pending = .write 4 0x02C#12 v :: rest →
    (s.rxLen.val = 260 → step s = .next { s with pending := rest, payloadValid := false, rxOvf := true }) ∧
    (s.rxLen.val < 260 → s.rx.wf = true →
      ∃ t, step s = .next t ∧ t.rxLen.val = s.rxLen.val + 1 ∧ t.rx.read s.rxLen.val = v.extractLsb' 0 8 ∧
        (∀ a, a ≠ s.rxLen.val → t.rx.read a = s.rx.read a) ∧
        t = { s with pending := rest, payloadValid := false, rx := t.rx, rxLen := t.rxLen })

/-- FRAME.PARSE accepts: every condition of R134 met, it completes with PAYLOAD_VALID set and FRAME_INFO and
FRAME_CRC written. -/
def Obligations.FrameParseAcceptsValidFrame : Prop :=
  ∀ (s : State) (hi lo : Byte), 5 ≤ s.rxLen.val → s.rx.read 1 ≠ 0x83#8 → s.rx.read 1 ≠ 0x86#8 →
    s.rxLen.val = (s.rx.read 2).toNat + 5 →
    (hi, lo) = crcCompute ((List.range (s.rxLen.val - 2)).map s.rx.read) →
    (if s.crcSwap then (lo, hi) else (hi, lo)) =
      (s.rx.read (s.rxLen.val - 2), s.rx.read (s.rxLen.val - 1)) →
    exec .frameParse s =
      .next { s with
        frameInfo := s.rx.read 2 ++ s.rx.read 1 ++ s.rx.read 0
        frameCrc := s.rx.read (s.rxLen.val - 2) ++ s.rx.read (s.rxLen.val - 1) ++
          s.rx.read (s.rxLen.val - 2) ++ s.rx.read (s.rxLen.val - 1)
        payloadValid := true
        lastErr := none }

/-- R134: the outcomes of FRAME.PARSE in the order of its steps, each with exactly the state it leaves, and its
encoding. The expected CRC bytes `c` are (CRC_HI, CRC_LO) of the frame, or the reverse when CRC_SWAP is 1 (R104). -/
def Obligations.FrameParseFollowsItsSteps : Prop :=
  (∀ s : State, s.rxLen.val < 5 → exec .frameParse s =
    .next { s with payloadValid := false, lastErr := some .tooShort, errSeen := true }) ∧
  (∀ s : State, 5 ≤ s.rxLen.val → s.rx.read 1 = 0x83#8 ∨ s.rx.read 1 = 0x86#8 → exec .frameParse s =
    .next { s with
      payloadValid := false
      frameInfo := s.rx.read 2 ++ s.rx.read 1 ++ s.rx.read 0
      devErr := s.rx.read 2
      lastErr := some .deviceRejected
      errSeen := true }) ∧
  (∀ s : State, 5 ≤ s.rxLen.val → s.rx.read 1 ≠ 0x83#8 → s.rx.read 1 ≠ 0x86#8 →
    s.rxLen.val ≠ (s.rx.read 2).toNat + 5 → exec .frameParse s =
    .next { s with
      payloadValid := false
      frameInfo := s.rx.read 2 ++ s.rx.read 1 ++ s.rx.read 0
      lastErr := some .lengthMismatch
      errSeen := true }) ∧
  (∀ (s : State) (hi lo : Byte) (c r : Byte × Byte), 5 ≤ s.rxLen.val → s.rx.read 1 ≠ 0x83#8 → s.rx.read 1 ≠ 0x86#8 →
    s.rxLen.val = (s.rx.read 2).toNat + 5 →
    (hi, lo) = crcCompute ((List.range (s.rxLen.val - 2)).map s.rx.read) →
    c = (if s.crcSwap then (lo, hi) else (hi, lo)) →
    r = (s.rx.read (s.rxLen.val - 2), s.rx.read (s.rxLen.val - 1)) →
    exec .frameParse s =
      if c = r then
        .next { s with
          payloadValid := true
          frameInfo := s.rx.read 2 ++ s.rx.read 1 ++ s.rx.read 0
          frameCrc := r.1 ++ r.2 ++ c.1 ++ c.2
          lastErr := none }
      else
        .next { s with
          payloadValid := false
          frameInfo := s.rx.read 2 ++ s.rx.read 1 ++ s.rx.read 0
          frameCrc := r.1 ++ r.2 ++ c.1 ++ c.2
          lastErr := some .checksumMismatch
          errSeen := true }) ∧
  decode 0x00000011#32 = .ok .frameParse ∧ IllegalWhenSet 0x11#8 0xFFFFFF00#32

/-- "parsing the same valid byte buffer twice yields identical payload output": a second FRAME.PARSE with no RX_PUSH
or RX.CLEAR between leaves the identical state, whatever the first one's outcome (R137). -/
def Obligations.FrameParseIsIdempotent : Prop :=
  ∀ s t : State, exec .frameParse s = .next t → exec .frameParse t = .next t

/-- Corrupting any payload byte of a frame that FRAME.PARSE accepts makes it raise CHECKSUM_MISMATCH (R137). -/
def Obligations.CorruptedPayloadByteIsRejected : Prop :=
  ∀ (s t : State) (o : Nat) (b : Byte), s.rx.wf = true → exec .frameParse s = .next t → t.payloadValid = true →
    o < t.plen → b ≠ s.rx.read (3 + o) →
    ∃ u, exec .frameParse { s with rx := s.rx.write (3 + o) b } = .next u ∧
      u.lastErr = some .checksumMismatch ∧ u.payloadValid = false

/-- RECV of any well-formed response whose status is not a rejection (0x83, 0x86) is accepted, from every state with a canonical
RX buffer, and the payload is then in the payload space (R88, R131, R133, R134). The list of pending events is the
model's own (log entry 1). -/
def Obligations.EveryNonRejectingResponseIsAccepted : Prop :=
  ∀ (s : State) (addr stat : Byte) (payload : List Byte) (rest : List BusEvent), s.rx.wf = true →
    payload.length ≤ 255 → stat ≠ 0x83#8 → stat ≠ 0x86#8 →
    ∃ t, runSteps (payload.length + 7)
        { s with pending := (Stmt.recv (responseFrame s.crcSwap addr stat payload)).events ++ rest } = .next t ∧
      t.pending = rest ∧ t.payloadValid = true ∧ t.lastErr = none ∧ t.addr = addr ∧ t.stat = stat ∧
      t.plen = payload.length ∧ (∀ o, o < payload.length → payloadByte t.rx o = payload.getD o 0#8) ∧
      t.rxOvf = s.rxOvf ∧ t.errSeen = s.errSeen

/-- R136: FRAME.REQ builds the eight request bytes in TX, the CRC as (CRC_HI, CRC_LO) or, when CRC_SWAP is 1, the
reverse (R104); every word with OPC = 0x12 is legal. -/
def Obligations.FrameReqBuildsRequest : Prop :=
  (∀ (addr : Byte) (start : Half) (s : State) (hi lo : Byte), s.tx.wf = true →
    (hi, lo) = crcCompute [addr, 0x03#8, start.extractLsb' 8 8, start.extractLsb' 0 8, s.arg0.extractLsb' 8 8,
      s.arg0.extractLsb' 0 8] →
    ∃ t, exec (.frameReq addr start) s = .next t ∧
      t.tx.read 0 = addr ∧ t.tx.read 1 = 0x03#8 ∧
      t.tx.read 2 = start.extractLsb' 8 8 ∧ t.tx.read 3 = start.extractLsb' 0 8 ∧
      t.tx.read 4 = s.arg0.extractLsb' 8 8 ∧ t.tx.read 5 = s.arg0.extractLsb' 0 8 ∧
      t.tx.read 6 = (if s.crcSwap then lo else hi) ∧ t.tx.read 7 = (if s.crcSwap then hi else lo) ∧
      t.txLen.val = 8 ∧ (∀ a, 8 ≤ a → t.tx.read a = s.tx.read a) ∧
      t = { s with tx := t.tx, txLen := t.txLen, lastErr := none }) ∧
  (∀ (addr : BitVec 8) (start : BitVec 16), decode (start ++ addr ++ 0x12#8) = .ok (.frameReq addr start))

/-- The CRC of a whole request, its own CRC bytes included, is 0 in the Modbus wire order: what a receiver of the
request checks (R104, R109, R136). -/
def Obligations.RequestChecksItselfToZero : Prop :=
  ∀ (addr : Byte) (start : Half) (s : State), s.tx.wf = true → s.crcSwap = false →
    ∃ t, runCommands [.frameReq addr start, .crcInit, .crcBuf .tx 8] s = .next t ∧
      t.crcHi = 0#8 ∧ t.crcLo = 0#8 ∧ t.lastErr = none

/-! ### Field extractor -/

/-- EXTRACT of an integer field that is in range completes with RAW and VALUE written: RAW is the big-endian field,
zero-extended or sign-extended, and VALUE the scaled value of the same integer (R162, R163, R33). -/
def Obligations.ExtractIntegerResult : Prop :=
  ∀ (s : State) (idx : Fin 64) (d : Word) (o : Nat) (h : BitVec 16) (f : BitVec 32),
    d = s.desc[idx.val] → o = (d.extractLsb' 0 8).toNat → d.getLsbD 31 = true → s.payloadValid = true →
    h = s.rx.read (3 + o) ++ s.rx.read (3 + o + 1) →
    f = s.rx.read (3 + o) ++ s.rx.read (3 + o + 1) ++ s.rx.read (3 + o + 2) ++ s.rx.read (3 + o + 3) →
    (d.extractLsb' 16 4 = 0#4 → o + 2 ≤ s.plen → exec (.extract idx.val) s =
      .next { s with
        raw := h.zeroExtend 32
        value := BitVec.ofInt 64
          (scaled s.round s.tempUnit h.toNat (d.extractLsb' 20 2).toNat (d.getLsbD 22))
        lastErr := none }) ∧
    (d.extractLsb' 16 4 = 1#4 → o + 2 ≤ s.plen → exec (.extract idx.val) s =
      .next { s with
        raw := h.signExtend 32
        value := BitVec.ofInt 64
          (scaled s.round s.tempUnit h.toInt (d.extractLsb' 20 2).toNat (d.getLsbD 22))
        lastErr := none }) ∧
    (d.extractLsb' 16 4 = 2#4 → o + 4 ≤ s.plen → exec (.extract idx.val) s =
      .next { s with
        raw := f
        value := BitVec.ofInt 64
          (scaled s.round s.tempUnit f.toNat (d.extractLsb' 20 2).toNat (d.getLsbD 22))
        lastErr := none }) ∧
    (d.extractLsb' 16 4 = 3#4 → o + 4 ≤ s.plen → exec (.extract idx.val) s =
      .next { s with
        raw := f
        value := BitVec.ofInt 64
          (scaled s.round s.tempUnit f.toInt (d.extractLsb' 20 2).toNat (d.getLsbD 22))
        lastErr := none })

/-- EXTRACT of a string field that is in range completes with STR_LEN at the trimmed length: past it only NUL bytes
up to the field's width, and the last byte kept is not NUL (R163, R169). -/
def Obligations.ExtractStringResult : Prop :=
  ∀ (s : State) (idx : Fin 64) (d : Word) (o n : Nat),
    d = s.desc[idx.val] → o = (d.extractLsb' 0 8).toNat → n = (d.extractLsb' 8 8).toNat →
    d.getLsbD 31 = true → d.extractLsb' 16 4 = 4#4 → s.payloadValid = true → o + n ≤ s.plen →
    ∃ l : Nat, exec (.extract idx.val) s = .next { s with strLen := BitVec.ofNat 8 l, lastErr := none } ∧
      l ≤ n ∧ (∀ j, l ≤ j → j < n → s.rx.read (3 + o + j) = 0x00#8) ∧
      (0 < l → s.rx.read (3 + o + l - 1) ≠ 0x00#8)

/-- R164: the checks of EXTRACT and their order; each raise leaves everything but LAST_ERR and ERR_SEEN. -/
def Obligations.ExtractChecksInOrder : Prop :=
  (∀ (s : State) (idx : Nat), 64 ≤ idx →
    exec (.extract idx) s = .next { s with lastErr := some .unknownSection, errSeen := true }) ∧
  (∀ (s : State) (idx : Fin 64) (d : Word), d = s.desc[idx.val] →
    (d.getLsbD 31 = false ∨ 5 ≤ (d.extractLsb' 16 4).toNat →
      exec (.extract idx.val) s = .next { s with lastErr := some .unknownSection, errSeen := true }) ∧
    (d.getLsbD 31 = true → (d.extractLsb' 16 4).toNat ≤ 4 → s.payloadValid = false →
      exec (.extract idx.val) s = .next { s with lastErr := some .noFrame, errSeen := true }) ∧
    (d.getLsbD 31 = true → s.payloadValid = true →
      ((d.extractLsb' 16 4).toNat ≤ 1 ∧ s.plen < (d.extractLsb' 0 8).toNat + 2 ∨
        2 ≤ (d.extractLsb' 16 4).toNat ∧ (d.extractLsb' 16 4).toNat ≤ 3 ∧
          s.plen < (d.extractLsb' 0 8).toNat + 4 ∨
        (d.extractLsb' 16 4).toNat = 4 ∧
          s.plen < (d.extractLsb' 0 8).toNat + (d.extractLsb' 8 8).toNat) →
      exec (.extract idx.val) s = .next { s with lastErr := some .decodeOutOfRange, errSeen := true }))

/-- R167: the rounding function is a nearest integer, breaks ties to even or away from zero, and gives the rule's
examples. -/
def Obligations.RoundingIsNearestWithTieRule : Prop :=
  (∀ (tie : TieRule) (num den : Int), 0 < den →
    -den ≤ 2 * (rnd tie num den * den - num) ∧ 2 * (rnd tie num den * den - num) ≤ den) ∧
  (∀ num den : Int, 0 < den → 2 * (num % den) = den → rnd .toEven num den % 2 = 0) ∧
  (∀ num den : Int, 0 < den → 2 * (num % den) = den →
    (0 ≤ num → num < rnd .awayFromZero num den * den) ∧ (num < 0 → rnd .awayFromZero num den * den < num)) ∧
  rnd .toEven 125 10 = 12 ∧ rnd .awayFromZero 125 10 = 13 ∧ rnd .toEven (-125) 10 = -12 ∧
  rnd .awayFromZero (-125) 10 = -13 ∧ State.reset.round = .toEven ∧
  (∀ tie, rnd tie 135 10 = 14 ∧ rnd tie (-126) 10 = -13)

/-- Scaling of a field without TEMP (R166, R170): one rounding of raw · 100 / 10^e under the tie rule, whatever the
unit; exact for e at most 2; for e = 3 it is the rounding of raw / 10, within half a hundredth. -/
def Obligations.ScalingRoundTrip : Prop :=
  (∀ (tie : TieRule) (unit : TempUnit) (raw : Int) (e : Nat),
    scaled tie unit raw e false = rnd tie (raw * 100) (10 ^ e)) ∧
  (∀ (tie : TieRule) (unit : TempUnit) (raw : Int) (e : Nat), e ≤ 2 →
    scaled tie unit raw e false = raw * 10 ^ (2 - e)) ∧
  (∀ (tie : TieRule) (unit : TempUnit) (raw : Int), scaled tie unit raw 3 false = rnd tie raw 10) ∧
  (∀ (tie : TieRule) (unit : TempUnit) (raw : Int),
    -5 ≤ 10 * scaled tie unit raw 3 false - raw ∧ 10 * scaled tie unit raw 3 false - raw ≤ 5)

/-- Temperature conversion: Celsius is the plain scaling, Kelvin adds 273.15, Fahrenheit is one rounding of C·9/5
under the tie rule plus 32, so within half a hundredth of C·9/5 + 32, and a field without TEMP ignores the unit; the
examples of R168 (R166, R168). The formulas are the spec's general knowledge (G7, log entry 13). -/
def Obligations.TemperatureUnitsConvert : Prop :=
  (∀ (tie : TieRule) (raw : Int) (e : Nat), e ≤ 3 →
    scaled tie .celsius raw e true = scaled tie .celsius raw e false ∧
    scaled tie .kelvin raw e true = scaled tie .celsius raw e false + 27315 ∧
    scaled tie .fahrenheit raw e true = rnd tie (raw * 900) (5 * 10 ^ e) + 3200 ∧
    -(5 * 10 ^ e) ≤ 2 * ((scaled tie .fahrenheit raw e true - 3200) * (5 * 10 ^ e) - raw * 900) ∧
    2 * ((scaled tie .fahrenheit raw e true - 3200) * (5 * 10 ^ e) - raw * 900) ≤ 5 * 10 ^ e ∧
    (∀ unit, scaled tie unit raw e false = scaled tie .celsius raw e false)) ∧
  (∀ tie, scaled tie .celsius 250 1 true = 2500 ∧ scaled tie .fahrenheit 250 1 true = 7700 ∧
    scaled tie .kelvin 250 1 true = 29815 ∧ scaled tie .fahrenheit (-7) 1 true = 3074) ∧
  scaled .toEven .fahrenheit 25 3 true = 3204 ∧ scaled .awayFromZero .fahrenheit 25 3 true = 3205

/-- VALUE never overflows: over the range of every field kind the scaled value is below 2^40 in size, so the stored
64 bits are its two's complement (R166, R211). -/
def Obligations.ValueFitsSigned64 : Prop :=
  ∀ (tie : TieRule) (unit : TempUnit) (raw : Int) (e : Nat) (temp : Bool),
    -2147483648 ≤ raw → raw ≤ 4294967295 → e ≤ 3 →
    -(2 ^ 40) < scaled tie unit raw e temp ∧ scaled tie unit raw e temp < 2 ^ 40 ∧
    (BitVec.ofInt 64 (scaled tie unit raw e temp)).toInt = scaled tie unit raw e temp

/-- EXTRACT reads only payload offsets below PLEN: two states that differ only in other bytes of RX get the same
result (R161, R163, R165). -/
def Obligations.ExtractReadsOnlyPayload : Prop :=
  ∀ (idx : Nat) (s t : State) (m : Memory), (∀ o, o < s.plen → payloadByte s.rx o = payloadByte m o) →
    exec (.extract idx) s = .next t → exec (.extract idx) { s with rx := m } = .next { t with rx := m }

/-! ### Bitfield decoder -/

/-- R191: DEC.FLAGS puts bit 15 - i of the selected 16-bit word at named index i. -/
def Obligations.DecFlagsReversesBits : Prop :=
  (∀ s : State, ∃ f : BitVec 16, exec (.decFlags .arg0) s = .next { s with flags := f, lastErr := none } ∧
    ∀ i, i < 16 → f.getLsbD i = s.arg0.getLsbD (15 - i)) ∧
  (∀ s : State, ∃ f : BitVec 16, exec (.decFlags .raw) s = .next { s with flags := f, lastErr := none } ∧
    ∀ i, i < 16 → f.getLsbD i = s.raw.getLsbD (15 - i)) ∧
  (∀ s : State, (readReg s .flags).extractLsb' 0 16 = s.flags ∧ (readReg s .flags).extractLsb' 16 16 = 0#16) ∧
  decode 0x00000030#32 = .ok (.decFlags .arg0) ∧ decode 0x00000130#32 = .ok (.decFlags .raw) ∧
  IllegalWhenSet 0x30#8 0xFFFFFE00#32

/-- R193: DEC.ALARM reads the two bits at 2·IDX of the selected word. -/
def Obligations.DecAlarmReadsTwoBits : Prop :=
  (∀ (s : State) (idx : Nat), idx < 16 →
    ∃ l : BitVec 2, exec (.decAlarm .arg0 idx) s = .next { s with level := l, lastErr := none } ∧
      ∀ j, j < 2 → l.getLsbD j = s.arg0.getLsbD (2 * idx + j)) ∧
  (∀ (s : State) (idx : Nat), idx < 16 →
    ∃ l : BitVec 2, exec (.decAlarm .raw idx) s = .next { s with level := l, lastErr := none } ∧
      ∀ j, j < 2 → l.getLsbD j = s.raw.getLsbD (2 * idx + j)) ∧
  (∀ idx : BitVec 4, decode (0#16 ++ 0x0#4 ++ idx ++ 0x31#8) = .ok (.decAlarm .arg0 idx.toNat) ∧
    decode (0#16 ++ 0x1#4 ++ idx ++ 0x31#8) = .ok (.decAlarm .raw idx.toNat)) ∧
  (∀ s : State, (readReg s .level).extractLsb' 0 2 = s.level ∧ (readReg s .level).extractLsb' 2 30 = 0#30) ∧
  IllegalWhenSet 0x31#8 0xFFFFE000#32

/-- R195: setting one bit gives exactly one named flag, and an alarm word with cell i ABOVE and all others NONE gives
ABOVE at i only. -/
def Obligations.OneHotWordsDecodeOneHot : Prop :=
  (∀ (src : WordSource) (s : State) (i : Nat), i < 16 → (sourceWord src s).extractLsb' 0 16 = 1#16 <<< (15 - i) →
    exec (.decFlags src) s = .next { s with flags := 1#16 <<< i, lastErr := none }) ∧
  (∀ (src : WordSource) (s : State) (i j : Nat), i < 16 → j < 16 → sourceWord src s = 0b10#32 <<< (2 * i) →
    exec (.decAlarm src j) s =
      .next { s with level := if j = i then 0b10#2 else 0b00#2, lastErr := none })

/-! ### The host register space -/

/-- The register map: each register and window word stands at the offset of R20, and the aligned offsets that no
register has are the unmapped ones of R43. -/
def Obligations.RegisterMapMatchesOffsets : Prop :=
  (∀ (r : HostReg) (off : BitVec 12), r.offset = some off → registerOf off = r) ∧
  (∀ off : BitVec 12, off.toNat % 4 = 0 →
    (registerOf off = .unmapped ↔
      (0x04C ≤ off.toNat ∧ off.toNat ≤ 0x0FC) ∨ (0x200 ≤ off.toNat ∧ off.toNat ≤ 0x3FC) ∨
        (0x504 ≤ off.toNat ∧ off.toNat ≤ 0x5FC) ∨ (0x608 ≤ off.toNat ∧ off.toNat ≤ 0xFFC)))

/-- A host read appends the register's value to what the host has read and changes nothing of the block, at every
aligned offset (R62, R67). The lists pending and reads are the model's own (log entries 1 and 4). -/
def Obligations.HostReadHasNoSideEffect : Prop :=
  ∀ (s : State) (rest : List BusEvent) (off : BitVec 12), s.pending = .read 4 off :: rest → off.toNat % 4 = 0 →
    step s = .next { s with pending := rest, reads := s.reads ++ [readReg s (registerOf off)] }

/-- What a read returns of the registers that hold a value of their own, with the bits that read 0 (R21 to R38). -/
def Obligations.ReadsReturnRegisterFields : Prop :=
  ∀ s : State,
    readReg s .id = 0x53420007#32 ∧ readReg s .cmd = 0#32 ∧ readReg s .rxPush = 0#32 ∧ readReg s .arg0 = s.arg0 ∧
    readReg s .crcVal = 0#16 ++ s.crcHi ++ s.crcLo ∧ readReg s .crcStd = 0#16 ++ s.crcLo ++ s.crcHi ∧
    readReg s .devErr = 0#24 ++ s.devErr ∧ readReg s .frameInfo = 0#8 ++ s.frameInfo ∧
    readReg s .frameCrc = s.frameCrc ∧ (readReg s .rxLen).toNat = s.rxLen.val ∧ readReg s .raw = s.raw ∧
    readReg s .valueHi ++ readReg s .valueLo = s.value ∧ readReg s .strLen = 0#24 ++ s.strLen ∧
    readReg s .flags = 0#16 ++ s.flags ∧ readReg s .level = 0#30 ++ s.level ∧
    (readReg s .txLen).toNat = s.txLen.val

/-- STATUS: the place of every field, and the bits that read 0 (R23, codes of R220). -/
def Obligations.StatusFieldsStandWhereTheySay : Prop :=
  ∀ s : State, (readReg s .status).extractLsb' 0 4 =
      (match s.lastErr with
        | none => 0#4
        | some .tooShort => 1#4
        | some .lengthMismatch => 2#4
        | some .checksumMismatch => 3#4
        | some .deviceRejected => 4#4
        | some .unknownSection => 5#4
        | some .decodeOutOfRange => 6#4
        | some .illegalCommand => 7#4
        | some .noFrame => 8#4
        | some .bufferRange => 9#4) ∧
    (readReg s .status).getLsbD 4 = s.payloadValid ∧ (readReg s .status).getLsbD 5 = s.crcMatch ∧
    (readReg s .status).extractLsb' 6 2 = 0#2 ∧ (readReg s .status).getLsbD 8 = s.errSeen ∧
    (readReg s .status).getLsbD 9 = s.rxOvf ∧ (readReg s .status).extractLsb' 10 22 = 0#22

/-- A write to STATUS clears the W1C bits it writes 1 to and changes nothing else (R23). -/
def Obligations.StatusWriteClearsOnlyStickyBits : Prop :=
  ∀ (s : State) (rest : List BusEvent) (v : Word), s.pending = .write 4 0x008#12 v :: rest →
    step s = .next { s with
      pending := rest
      errSeen := if v.getLsbD 8 then false else s.errSeen
      rxOvf := if v.getLsbD 9 then false else s.rxOvf }

/-- A write to CTRL: TEMP_UNIT takes 0 as Celsius, 1 as Fahrenheit, 2 as Kelvin and keeps its own on 3, ROUND and CRC_SWAP take their bits, the
other bits read 0, and nothing else changes (R22). -/
def Obligations.CtrlWriteKeepsLegalUnit : Prop :=
  ∀ (s : State) (rest : List BusEvent) (v : Word), s.pending = .write 4 0x004#12 v :: rest →
    ∃ t, step s = .next t ∧
      (readReg t .ctrl).extractLsb' 0 2 =
        (if v.extractLsb' 0 2 = 3#2 then (readReg s .ctrl).extractLsb' 0 2 else v.extractLsb' 0 2) ∧
      (v.extractLsb' 0 2 = 0#2 → t.tempUnit = .celsius) ∧ (v.extractLsb' 0 2 = 1#2 → t.tempUnit = .fahrenheit) ∧
      (v.extractLsb' 0 2 = 2#2 → t.tempUnit = .kelvin) ∧ (v.extractLsb' 0 2 = 3#2 → t.tempUnit = s.tempUnit) ∧
      (readReg t .ctrl).extractLsb' 2 2 = v.extractLsb' 2 2 ∧ (readReg t .ctrl).extractLsb' 4 28 = 0#28 ∧
      (t.round = .awayFromZero ↔ v.getLsbD 2 = true) ∧ t.crcSwap = v.getLsbD 3 ∧
      t = { s with pending := rest, tempUnit := t.tempUnit, round := t.round, crcSwap := t.crcSwap }

/-- R39: a write to DESC[i] stores all bits but the reserved [30:23], which read 0, and touches no other descriptor;
no command writes a descriptor. -/
def Obligations.DescWriteMasksReservedBits : Prop :=
  (∀ (s : State) (rest : List BusEvent) (v : Word) (i : Fin 64),
    s.pending = .write 4 (BitVec.ofNat 12 (0x100 + 4 * i.val)) v :: rest →
    ∃ t, step s = .next t ∧ readReg t (.desc i) = v &&& 0x807FFFFF#32 ∧
      (∀ j, j ≠ i → readReg t (.desc j) = readReg s (.desc j)) ∧ t = { s with pending := rest, desc := t.desc }) ∧
  (∀ (i : Instr) (s t : State), exec i s = .next t → t.desc = s.desc) ∧
  (∀ i : Fin 64, State.reset.desc[i.val] = 0#32)

/-- A write to ARG0 stores the word and changes nothing else (R25); a write to a read-only register or to an unmapped
offset is ignored (R20, R43). -/
def Obligations.PlainWritesStoreOrAreIgnored : Prop :=
  ∀ (s : State) (rest : List BusEvent) (v : Word) (off : BitVec 12), s.pending = .write 4 off v :: rest →
    (off = 0x010#12 → step s = .next { s with pending := rest, arg0 := v }) ∧
    (off.toNat % 4 = 0 → off ∉ [0x004#12, 0x008#12, 0x00C#12, 0x010#12, 0x02C#12] →
      ¬(0x100 ≤ off.toNat ∧ off.toNat ≤ 0x1FC) → step s = .next { s with pending := rest })

/-- R43: an unmapped offset reads 0, ignores writes, and has no side effect. -/
def Obligations.UnmappedOffsetsAreInert : Prop :=
  ∀ (s : State) (rest : List BusEvent) (v : Word) (off : BitVec 12), off.toNat % 4 = 0 →
    (0x04C ≤ off.toNat ∧ off.toNat ≤ 0x0FC) ∨ (0x200 ≤ off.toNat ∧ off.toNat ≤ 0x3FC) ∨
      (0x504 ≤ off.toNat ∧ off.toNat ≤ 0x5FC) ∨ (0x608 ≤ off.toNat ∧ off.toNat ≤ 0xFFC) →
    (s.pending = .read 4 off :: rest → step s = .next { s with pending := rest, reads := s.reads ++ [0#32] }) ∧
    (s.pending = .write 4 off v :: rest → step s = .next { s with pending := rest })

/-- The windows: byte j of RXWIN[k] is RX[4k+j] while 4k+j is below RX_LEN and 0 from there on, lowest index in the
lowest bits; TXWIN the same with TX and TX_LEN (R40, R41, R61). -/
def Obligations.WindowsPackLittleEndianAndMask : Prop :=
  (∀ (s : State) (k : Fin 65) (j : Nat), j < 4 → (readReg s (.rxWin k)).extractLsb' (8 * j) 8 =
    if 4 * k.val + j < s.rxLen.val then s.rx.read (4 * k.val + j) else 0#8) ∧
  (∀ (s : State) (k : Fin 2) (j : Nat), j < 4 → (readReg s (.txWin k)).extractLsb' (8 * j) 8 =
    if 4 * k.val + j < s.txLen.val then s.tx.read (4 * k.val + j) else 0#8)

/-- R62: an access of another width, or at an offset that is not a multiple of 4, is refused. -/
def Obligations.OtherAccessesAreRefused : Prop :=
  ∀ (s : State) (rest : List BusEvent) (width : Nat) (off : BitVec 12) (v : Word),
    width ≠ 4 ∨ off.toNat % 4 ≠ 0 →
    (s.pending = .read width off :: rest → step s = .refused .outsideInterface) ∧
    (s.pending = .write width off v :: rest → step s = .refused .outsideInterface)

/-- After a reset every register of the map reads as R20 and R48 say, whatever the state before. -/
def Obligations.ResetLeavesResetValues : Prop :=
  ∀ (s : State) (rest : List BusEvent), s.pending = .reset :: rest →
    ∃ t, step s = .next t ∧ t.pending = rest ∧ readReg t .id = 0x53420007#32 ∧ readReg t .crcVal = 0xFFFF#32 ∧
      readReg t .crcStd = 0xFFFF#32 ∧
      (∀ r, r ≠ .id → r ≠ .crcVal → r ≠ .crcStd → readReg t r = 0#32)

/-- A reset that coincides with a CMD write falls before the command or after it, and which of the two is not known
(R250, I8; the free choice is log entry 7). -/
def Obligations.ResetDuringCommandIsBeforeOrAfter : Prop :=
  ∀ (s : State) (rest : List BusEvent) (w : Word), s.pending = .resetDuringCommand w :: rest →
    ∃ t u, step s = .next t ∧
      command w { State.reset with pending := rest, reads := s.reads, choices := s.choices + 1 } = .next u ∧
      (t = u ∨ t = { State.reset with pending := rest, reads := s.reads, choices := s.choices + 1 })

/-- With no event pending the block waits: nothing changes (R250; the model's choice, log entry 3). -/
def Obligations.NothingChangesWithoutAnAccess : Prop :=
  ∀ s : State, s.pending = [] → step s = .next s

/-! ### The whole machine -/

/-- Every command completes from every state, without an error or with one its row of R221 lists; ERR_SEEN is set by
an error and never cleared by a command (R10, R46, R221). -/
def Obligations.EveryCommandCompletesWithListedError : Prop :=
  ∀ (i : Instr) (s : State), ∃ t, exec i s = .next t ∧
    ((t.lastErr = none ∧ t.errSeen = s.errSeen) ∨
      (∃ e ∈ raisable i, t.lastErr = some e ∧ t.errSeen = true))

/-- What no command writes: ARG0, CTRL, DESC, RX_OVF, and every byte of RX (R25, R39, R44, R46, R213). That RX.CLEAR
leaves the bytes it hides is the model's choice among those R132 and I1 allow (log entry 6). -/
def Obligations.NoCommandWritesHostState : Prop :=
  ∀ (i : Instr) (s t : State), exec i s = .next t →
    t.arg0 = s.arg0 ∧ t.tempUnit = s.tempUnit ∧ t.round = s.round ∧ t.crcSwap = s.crcSwap ∧ t.desc = s.desc ∧
    t.rxOvf = s.rxOvf ∧ (∀ a, t.rx.read a = s.rx.read a) ∧ t.pending = s.pending ∧ t.reads = s.reads ∧
    t.choices = s.choices

/-- Each result has one writer: a command that is not the writer leaves the register, and every byte of TX, as it was
(R26, R28, R33, R34, R35, R38, R46). -/
def Obligations.ResultRegistersHaveOneWriter : Prop :=
  ∀ (i : Instr) (s t : State), exec i s = .next t →
    ((∀ idx, i ≠ .extract idx) → t.raw = s.raw ∧ t.value = s.value ∧ t.strLen = s.strLen) ∧
    ((∀ src, i ≠ .decFlags src) → t.flags = s.flags) ∧
    ((∀ src idx, i ≠ .decAlarm src idx) → t.level = s.level) ∧
    ((∀ addr start, i ≠ .frameReq addr start) → t.txLen = s.txLen ∧ ∀ a, t.tx.read a = s.tx.read a) ∧
    (i ≠ .frameParse → t.devErr = s.devErr ∧ t.frameInfo = s.frameInfo ∧ t.frameCrc = s.frameCrc) ∧
    ((∀ e, i ≠ .crcVerify e) → t.crcMatch = s.crcMatch) ∧
    (i ≠ .crcInit → (∀ b, i ≠ .crcByte b) → (∀ b, i ≠ .crcPoly b) → (∀ buf n, i ≠ .crcBuf buf n) →
      t.crcHi = s.crcHi ∧ t.crcLo = s.crcLo) ∧
    (i ≠ .rxClear → t.rxLen = s.rxLen) ∧
    (i ≠ .rxClear → i ≠ .frameParse → t.payloadValid = s.payloadValid)

/-- PAYLOAD_VALID is set only by a FRAME.PARSE that completes without error (R27). -/
def Obligations.PayloadValidIsSetOnlyByParse : Prop :=
  ∀ s t : State, step s = .next t → s.payloadValid = false → t.payloadValid = true →
    (∃ rest, s.pending = .write 4 0x00C#12 0x00000011#32 :: rest) ∧ t.lastErr = none

/-- ERR_SEEN is sticky: a step clears it only by a reset or a STATUS write with bit 8 set (R23, R46). -/
def Obligations.ErrSeenIsSticky : Prop :=
  ∀ s t : State, step s = .next t → s.errSeen = true → t.errSeen = false →
    (∃ v rest, s.pending = .write 4 0x008#12 v :: rest ∧ v.getLsbD 8 = true) ∨
    (∃ rest, s.pending = .reset :: rest) ∨ (∃ w rest, s.pending = .resetDuringCommand w :: rest)

/-- The only steps that do not exist: an access outside the interface and a bus error the platform imposes (R62, I2,
I8). Every other event's step answers a next state (R250, R252); that the step with nothing pending does so too is the
model's choice (log entry 3). -/
def Obligations.StepsExistInsideTheInterface : Prop :=
  ∀ s : State, (∃ t, step s = .next t) ∨
    (step s = .refused .outsideInterface ∧ ∃ width off rest, (width ≠ 4 ∨ off.toNat % 4 ≠ 0) ∧
      (s.pending = .read width off :: rest ∨ ∃ v, s.pending = .write width off v :: rest)) ∨
    (step s = .refused .busError ∧ ∃ rest, s.pending = .busError :: rest)

/-- The invariant holds right after reset (R48). -/
def Obligations.ResetSatisfiesInvariant : Prop := State.Inv State.reset

/-- Every step keeps the invariant: the buffers canonical and inside their bounds, TX_LEN 0 or 8, the reserved
descriptor bits 0, an accepted frame behind PAYLOAD_VALID, a checked request behind TX_LEN = 8 (R27, R31, R38, R39,
R134, R136). -/
def Obligations.StepKeepsInvariant : Prop :=
  ∀ s t : State, s.Inv → step s = .next t → t.Inv

/-- The buffer bytes at or past RX_LEN and TX_LEN are not observable: two states that differ only in them answer
alike at every step, go on differing only in such bytes, and show the host the same (R47, I1). -/
def Obligations.HiddenBytesAreUnobservable : Prop :=
  ∀ s t : State, s.Inv → t.Inv → s.SameVisible t →
    s.observation = t.observation ∧
    ((∃ s' t', step s = .next s' ∧ step t = .next t' ∧ s'.SameVisible t') ∨
      (∃ r, step s = .refused r ∧ step t = .refused r))
end

