-- ==== Sys2Proof/Laws/State.lean ====
section
/-!
SUPPORT. What each named update of the state does to each field, so that no proof unfolds a record update.
-/

namespace Sys2Proof.Machine

/-! ### State.withAcc -/

@[simp] theorem State.withAcc_crcHi (s : State) (p : Byte × Byte) : (s.withAcc p).crcHi = p.1 := rfl
@[simp] theorem State.withAcc_crcLo (s : State) (p : Byte × Byte) : (s.withAcc p).crcLo = p.2 := rfl
@[simp] theorem State.withAcc_tempUnit (s : State) (p : Byte × Byte) : (s.withAcc p).tempUnit = s.tempUnit := rfl
@[simp] theorem State.withAcc_round (s : State) (p : Byte × Byte) : (s.withAcc p).round = s.round := rfl
@[simp] theorem State.withAcc_crcSwap (s : State) (p : Byte × Byte) : (s.withAcc p).crcSwap = s.crcSwap := rfl
@[simp] theorem State.withAcc_lastErr (s : State) (p : Byte × Byte) : (s.withAcc p).lastErr = s.lastErr := rfl
@[simp] theorem State.withAcc_payloadValid (s : State) (p : Byte × Byte) :
    (s.withAcc p).payloadValid = s.payloadValid := rfl
@[simp] theorem State.withAcc_crcMatch (s : State) (p : Byte × Byte) : (s.withAcc p).crcMatch = s.crcMatch := rfl
@[simp] theorem State.withAcc_errSeen (s : State) (p : Byte × Byte) : (s.withAcc p).errSeen = s.errSeen := rfl
@[simp] theorem State.withAcc_rxOvf (s : State) (p : Byte × Byte) : (s.withAcc p).rxOvf = s.rxOvf := rfl
@[simp] theorem State.withAcc_arg0 (s : State) (p : Byte × Byte) : (s.withAcc p).arg0 = s.arg0 := rfl
@[simp] theorem State.withAcc_devErr (s : State) (p : Byte × Byte) : (s.withAcc p).devErr = s.devErr := rfl
@[simp] theorem State.withAcc_frameInfo (s : State) (p : Byte × Byte) : (s.withAcc p).frameInfo = s.frameInfo := rfl
@[simp] theorem State.withAcc_frameCrc (s : State) (p : Byte × Byte) : (s.withAcc p).frameCrc = s.frameCrc := rfl
@[simp] theorem State.withAcc_rx (s : State) (p : Byte × Byte) : (s.withAcc p).rx = s.rx := rfl
@[simp] theorem State.withAcc_rxLen (s : State) (p : Byte × Byte) : (s.withAcc p).rxLen = s.rxLen := rfl
@[simp] theorem State.withAcc_raw (s : State) (p : Byte × Byte) : (s.withAcc p).raw = s.raw := rfl
@[simp] theorem State.withAcc_value (s : State) (p : Byte × Byte) : (s.withAcc p).value = s.value := rfl
@[simp] theorem State.withAcc_strLen (s : State) (p : Byte × Byte) : (s.withAcc p).strLen = s.strLen := rfl
@[simp] theorem State.withAcc_flags (s : State) (p : Byte × Byte) : (s.withAcc p).flags = s.flags := rfl
@[simp] theorem State.withAcc_level (s : State) (p : Byte × Byte) : (s.withAcc p).level = s.level := rfl
@[simp] theorem State.withAcc_tx (s : State) (p : Byte × Byte) : (s.withAcc p).tx = s.tx := rfl
@[simp] theorem State.withAcc_txLen (s : State) (p : Byte × Byte) : (s.withAcc p).txLen = s.txLen := rfl
@[simp] theorem State.withAcc_desc (s : State) (p : Byte × Byte) : (s.withAcc p).desc = s.desc := rfl
@[simp] theorem State.withAcc_pending (s : State) (p : Byte × Byte) : (s.withAcc p).pending = s.pending := rfl
@[simp] theorem State.withAcc_reads (s : State) (p : Byte × Byte) : (s.withAcc p).reads = s.reads := rfl
@[simp] theorem State.withAcc_choices (s : State) (p : Byte × Byte) : (s.withAcc p).choices = s.choices := rfl

/-! ### State.withPayloadValid -/

@[simp] theorem State.withPayloadValid_crcHi (s : State) (v : Bool) : (s.withPayloadValid v).crcHi = s.crcHi := rfl
@[simp] theorem State.withPayloadValid_crcLo (s : State) (v : Bool) : (s.withPayloadValid v).crcLo = s.crcLo := rfl
@[simp] theorem State.withPayloadValid_tempUnit (s : State) (v : Bool) :
    (s.withPayloadValid v).tempUnit = s.tempUnit := rfl
@[simp] theorem State.withPayloadValid_round (s : State) (v : Bool) : (s.withPayloadValid v).round = s.round := rfl
@[simp] theorem State.withPayloadValid_crcSwap (s : State) (v : Bool) :
    (s.withPayloadValid v).crcSwap = s.crcSwap := rfl
@[simp] theorem State.withPayloadValid_lastErr (s : State) (v : Bool) :
    (s.withPayloadValid v).lastErr = s.lastErr := rfl
@[simp] theorem State.withPayloadValid_payloadValid (s : State) (v : Bool) :
    (s.withPayloadValid v).payloadValid = v := rfl
@[simp] theorem State.withPayloadValid_crcMatch (s : State) (v : Bool) :
    (s.withPayloadValid v).crcMatch = s.crcMatch := rfl
@[simp] theorem State.withPayloadValid_errSeen (s : State) (v : Bool) :
    (s.withPayloadValid v).errSeen = s.errSeen := rfl
@[simp] theorem State.withPayloadValid_rxOvf (s : State) (v : Bool) : (s.withPayloadValid v).rxOvf = s.rxOvf := rfl
@[simp] theorem State.withPayloadValid_arg0 (s : State) (v : Bool) : (s.withPayloadValid v).arg0 = s.arg0 := rfl
@[simp] theorem State.withPayloadValid_devErr (s : State) (v : Bool) : (s.withPayloadValid v).devErr = s.devErr := rfl
@[simp] theorem State.withPayloadValid_frameInfo (s : State) (v : Bool) :
    (s.withPayloadValid v).frameInfo = s.frameInfo := rfl
@[simp] theorem State.withPayloadValid_frameCrc (s : State) (v : Bool) :
    (s.withPayloadValid v).frameCrc = s.frameCrc := rfl
@[simp] theorem State.withPayloadValid_rx (s : State) (v : Bool) : (s.withPayloadValid v).rx = s.rx := rfl
@[simp] theorem State.withPayloadValid_rxLen (s : State) (v : Bool) : (s.withPayloadValid v).rxLen = s.rxLen := rfl
@[simp] theorem State.withPayloadValid_raw (s : State) (v : Bool) : (s.withPayloadValid v).raw = s.raw := rfl
@[simp] theorem State.withPayloadValid_value (s : State) (v : Bool) : (s.withPayloadValid v).value = s.value := rfl
@[simp] theorem State.withPayloadValid_strLen (s : State) (v : Bool) : (s.withPayloadValid v).strLen = s.strLen := rfl
@[simp] theorem State.withPayloadValid_flags (s : State) (v : Bool) : (s.withPayloadValid v).flags = s.flags := rfl
@[simp] theorem State.withPayloadValid_level (s : State) (v : Bool) : (s.withPayloadValid v).level = s.level := rfl
@[simp] theorem State.withPayloadValid_tx (s : State) (v : Bool) : (s.withPayloadValid v).tx = s.tx := rfl
@[simp] theorem State.withPayloadValid_txLen (s : State) (v : Bool) : (s.withPayloadValid v).txLen = s.txLen := rfl
@[simp] theorem State.withPayloadValid_desc (s : State) (v : Bool) : (s.withPayloadValid v).desc = s.desc := rfl
@[simp] theorem State.withPayloadValid_pending (s : State) (v : Bool) :
    (s.withPayloadValid v).pending = s.pending := rfl
@[simp] theorem State.withPayloadValid_reads (s : State) (v : Bool) : (s.withPayloadValid v).reads = s.reads := rfl
@[simp] theorem State.withPayloadValid_choices (s : State) (v : Bool) :
    (s.withPayloadValid v).choices = s.choices := rfl

/-! ### State.withCrcMatch -/

@[simp] theorem State.withCrcMatch_crcHi (s : State) (v : Bool) : (s.withCrcMatch v).crcHi = s.crcHi := rfl
@[simp] theorem State.withCrcMatch_crcLo (s : State) (v : Bool) : (s.withCrcMatch v).crcLo = s.crcLo := rfl
@[simp] theorem State.withCrcMatch_tempUnit (s : State) (v : Bool) : (s.withCrcMatch v).tempUnit = s.tempUnit := rfl
@[simp] theorem State.withCrcMatch_round (s : State) (v : Bool) : (s.withCrcMatch v).round = s.round := rfl
@[simp] theorem State.withCrcMatch_crcSwap (s : State) (v : Bool) : (s.withCrcMatch v).crcSwap = s.crcSwap := rfl
@[simp] theorem State.withCrcMatch_lastErr (s : State) (v : Bool) : (s.withCrcMatch v).lastErr = s.lastErr := rfl
@[simp] theorem State.withCrcMatch_payloadValid (s : State) (v : Bool) :
    (s.withCrcMatch v).payloadValid = s.payloadValid := rfl
@[simp] theorem State.withCrcMatch_crcMatch (s : State) (v : Bool) : (s.withCrcMatch v).crcMatch = v := rfl
@[simp] theorem State.withCrcMatch_errSeen (s : State) (v : Bool) : (s.withCrcMatch v).errSeen = s.errSeen := rfl
@[simp] theorem State.withCrcMatch_rxOvf (s : State) (v : Bool) : (s.withCrcMatch v).rxOvf = s.rxOvf := rfl
@[simp] theorem State.withCrcMatch_arg0 (s : State) (v : Bool) : (s.withCrcMatch v).arg0 = s.arg0 := rfl
@[simp] theorem State.withCrcMatch_devErr (s : State) (v : Bool) : (s.withCrcMatch v).devErr = s.devErr := rfl
@[simp] theorem State.withCrcMatch_frameInfo (s : State) (v : Bool) : (s.withCrcMatch v).frameInfo = s.frameInfo := rfl
@[simp] theorem State.withCrcMatch_frameCrc (s : State) (v : Bool) : (s.withCrcMatch v).frameCrc = s.frameCrc := rfl
@[simp] theorem State.withCrcMatch_rx (s : State) (v : Bool) : (s.withCrcMatch v).rx = s.rx := rfl
@[simp] theorem State.withCrcMatch_rxLen (s : State) (v : Bool) : (s.withCrcMatch v).rxLen = s.rxLen := rfl
@[simp] theorem State.withCrcMatch_raw (s : State) (v : Bool) : (s.withCrcMatch v).raw = s.raw := rfl
@[simp] theorem State.withCrcMatch_value (s : State) (v : Bool) : (s.withCrcMatch v).value = s.value := rfl
@[simp] theorem State.withCrcMatch_strLen (s : State) (v : Bool) : (s.withCrcMatch v).strLen = s.strLen := rfl
@[simp] theorem State.withCrcMatch_flags (s : State) (v : Bool) : (s.withCrcMatch v).flags = s.flags := rfl
@[simp] theorem State.withCrcMatch_level (s : State) (v : Bool) : (s.withCrcMatch v).level = s.level := rfl
@[simp] theorem State.withCrcMatch_tx (s : State) (v : Bool) : (s.withCrcMatch v).tx = s.tx := rfl
@[simp] theorem State.withCrcMatch_txLen (s : State) (v : Bool) : (s.withCrcMatch v).txLen = s.txLen := rfl
@[simp] theorem State.withCrcMatch_desc (s : State) (v : Bool) : (s.withCrcMatch v).desc = s.desc := rfl
@[simp] theorem State.withCrcMatch_pending (s : State) (v : Bool) : (s.withCrcMatch v).pending = s.pending := rfl
@[simp] theorem State.withCrcMatch_reads (s : State) (v : Bool) : (s.withCrcMatch v).reads = s.reads := rfl
@[simp] theorem State.withCrcMatch_choices (s : State) (v : Bool) : (s.withCrcMatch v).choices = s.choices := rfl

/-! ### State.withRxOvf -/

@[simp] theorem State.withRxOvf_crcHi (s : State) : (s.withRxOvf).crcHi = s.crcHi := rfl
@[simp] theorem State.withRxOvf_crcLo (s : State) : (s.withRxOvf).crcLo = s.crcLo := rfl
@[simp] theorem State.withRxOvf_tempUnit (s : State) : (s.withRxOvf).tempUnit = s.tempUnit := rfl
@[simp] theorem State.withRxOvf_round (s : State) : (s.withRxOvf).round = s.round := rfl
@[simp] theorem State.withRxOvf_crcSwap (s : State) : (s.withRxOvf).crcSwap = s.crcSwap := rfl
@[simp] theorem State.withRxOvf_lastErr (s : State) : (s.withRxOvf).lastErr = s.lastErr := rfl
@[simp] theorem State.withRxOvf_payloadValid (s : State) : (s.withRxOvf).payloadValid = s.payloadValid := rfl
@[simp] theorem State.withRxOvf_crcMatch (s : State) : (s.withRxOvf).crcMatch = s.crcMatch := rfl
@[simp] theorem State.withRxOvf_errSeen (s : State) : (s.withRxOvf).errSeen = s.errSeen := rfl
@[simp] theorem State.withRxOvf_rxOvf (s : State) : (s.withRxOvf).rxOvf = true := rfl
@[simp] theorem State.withRxOvf_arg0 (s : State) : (s.withRxOvf).arg0 = s.arg0 := rfl
@[simp] theorem State.withRxOvf_devErr (s : State) : (s.withRxOvf).devErr = s.devErr := rfl
@[simp] theorem State.withRxOvf_frameInfo (s : State) : (s.withRxOvf).frameInfo = s.frameInfo := rfl
@[simp] theorem State.withRxOvf_frameCrc (s : State) : (s.withRxOvf).frameCrc = s.frameCrc := rfl
@[simp] theorem State.withRxOvf_rx (s : State) : (s.withRxOvf).rx = s.rx := rfl
@[simp] theorem State.withRxOvf_rxLen (s : State) : (s.withRxOvf).rxLen = s.rxLen := rfl
@[simp] theorem State.withRxOvf_raw (s : State) : (s.withRxOvf).raw = s.raw := rfl
@[simp] theorem State.withRxOvf_value (s : State) : (s.withRxOvf).value = s.value := rfl
@[simp] theorem State.withRxOvf_strLen (s : State) : (s.withRxOvf).strLen = s.strLen := rfl
@[simp] theorem State.withRxOvf_flags (s : State) : (s.withRxOvf).flags = s.flags := rfl
@[simp] theorem State.withRxOvf_level (s : State) : (s.withRxOvf).level = s.level := rfl
@[simp] theorem State.withRxOvf_tx (s : State) : (s.withRxOvf).tx = s.tx := rfl
@[simp] theorem State.withRxOvf_txLen (s : State) : (s.withRxOvf).txLen = s.txLen := rfl
@[simp] theorem State.withRxOvf_desc (s : State) : (s.withRxOvf).desc = s.desc := rfl
@[simp] theorem State.withRxOvf_pending (s : State) : (s.withRxOvf).pending = s.pending := rfl
@[simp] theorem State.withRxOvf_reads (s : State) : (s.withRxOvf).reads = s.reads := rfl
@[simp] theorem State.withRxOvf_choices (s : State) : (s.withRxOvf).choices = s.choices := rfl

/-! ### State.withArg0 -/

@[simp] theorem State.withArg0_crcHi (s : State) (v : Word) : (s.withArg0 v).crcHi = s.crcHi := rfl
@[simp] theorem State.withArg0_crcLo (s : State) (v : Word) : (s.withArg0 v).crcLo = s.crcLo := rfl
@[simp] theorem State.withArg0_tempUnit (s : State) (v : Word) : (s.withArg0 v).tempUnit = s.tempUnit := rfl
@[simp] theorem State.withArg0_round (s : State) (v : Word) : (s.withArg0 v).round = s.round := rfl
@[simp] theorem State.withArg0_crcSwap (s : State) (v : Word) : (s.withArg0 v).crcSwap = s.crcSwap := rfl
@[simp] theorem State.withArg0_lastErr (s : State) (v : Word) : (s.withArg0 v).lastErr = s.lastErr := rfl
@[simp] theorem State.withArg0_payloadValid (s : State) (v : Word) : (s.withArg0 v).payloadValid = s.payloadValid := rfl
@[simp] theorem State.withArg0_crcMatch (s : State) (v : Word) : (s.withArg0 v).crcMatch = s.crcMatch := rfl
@[simp] theorem State.withArg0_errSeen (s : State) (v : Word) : (s.withArg0 v).errSeen = s.errSeen := rfl
@[simp] theorem State.withArg0_rxOvf (s : State) (v : Word) : (s.withArg0 v).rxOvf = s.rxOvf := rfl
@[simp] theorem State.withArg0_arg0 (s : State) (v : Word) : (s.withArg0 v).arg0 = v := rfl
@[simp] theorem State.withArg0_devErr (s : State) (v : Word) : (s.withArg0 v).devErr = s.devErr := rfl
@[simp] theorem State.withArg0_frameInfo (s : State) (v : Word) : (s.withArg0 v).frameInfo = s.frameInfo := rfl
@[simp] theorem State.withArg0_frameCrc (s : State) (v : Word) : (s.withArg0 v).frameCrc = s.frameCrc := rfl
@[simp] theorem State.withArg0_rx (s : State) (v : Word) : (s.withArg0 v).rx = s.rx := rfl
@[simp] theorem State.withArg0_rxLen (s : State) (v : Word) : (s.withArg0 v).rxLen = s.rxLen := rfl
@[simp] theorem State.withArg0_raw (s : State) (v : Word) : (s.withArg0 v).raw = s.raw := rfl
@[simp] theorem State.withArg0_value (s : State) (v : Word) : (s.withArg0 v).value = s.value := rfl
@[simp] theorem State.withArg0_strLen (s : State) (v : Word) : (s.withArg0 v).strLen = s.strLen := rfl
@[simp] theorem State.withArg0_flags (s : State) (v : Word) : (s.withArg0 v).flags = s.flags := rfl
@[simp] theorem State.withArg0_level (s : State) (v : Word) : (s.withArg0 v).level = s.level := rfl
@[simp] theorem State.withArg0_tx (s : State) (v : Word) : (s.withArg0 v).tx = s.tx := rfl
@[simp] theorem State.withArg0_txLen (s : State) (v : Word) : (s.withArg0 v).txLen = s.txLen := rfl
@[simp] theorem State.withArg0_desc (s : State) (v : Word) : (s.withArg0 v).desc = s.desc := rfl
@[simp] theorem State.withArg0_pending (s : State) (v : Word) : (s.withArg0 v).pending = s.pending := rfl
@[simp] theorem State.withArg0_reads (s : State) (v : Word) : (s.withArg0 v).reads = s.reads := rfl
@[simp] theorem State.withArg0_choices (s : State) (v : Word) : (s.withArg0 v).choices = s.choices := rfl

/-! ### State.withDevErr -/

@[simp] theorem State.withDevErr_crcHi (s : State) (v : Byte) : (s.withDevErr v).crcHi = s.crcHi := rfl
@[simp] theorem State.withDevErr_crcLo (s : State) (v : Byte) : (s.withDevErr v).crcLo = s.crcLo := rfl
@[simp] theorem State.withDevErr_tempUnit (s : State) (v : Byte) : (s.withDevErr v).tempUnit = s.tempUnit := rfl
@[simp] theorem State.withDevErr_round (s : State) (v : Byte) : (s.withDevErr v).round = s.round := rfl
@[simp] theorem State.withDevErr_crcSwap (s : State) (v : Byte) : (s.withDevErr v).crcSwap = s.crcSwap := rfl
@[simp] theorem State.withDevErr_lastErr (s : State) (v : Byte) : (s.withDevErr v).lastErr = s.lastErr := rfl
@[simp] theorem State.withDevErr_payloadValid (s : State) (v : Byte) :
    (s.withDevErr v).payloadValid = s.payloadValid := rfl
@[simp] theorem State.withDevErr_crcMatch (s : State) (v : Byte) : (s.withDevErr v).crcMatch = s.crcMatch := rfl
@[simp] theorem State.withDevErr_errSeen (s : State) (v : Byte) : (s.withDevErr v).errSeen = s.errSeen := rfl
@[simp] theorem State.withDevErr_rxOvf (s : State) (v : Byte) : (s.withDevErr v).rxOvf = s.rxOvf := rfl
@[simp] theorem State.withDevErr_arg0 (s : State) (v : Byte) : (s.withDevErr v).arg0 = s.arg0 := rfl
@[simp] theorem State.withDevErr_devErr (s : State) (v : Byte) : (s.withDevErr v).devErr = v := rfl
@[simp] theorem State.withDevErr_frameInfo (s : State) (v : Byte) : (s.withDevErr v).frameInfo = s.frameInfo := rfl
@[simp] theorem State.withDevErr_frameCrc (s : State) (v : Byte) : (s.withDevErr v).frameCrc = s.frameCrc := rfl
@[simp] theorem State.withDevErr_rx (s : State) (v : Byte) : (s.withDevErr v).rx = s.rx := rfl
@[simp] theorem State.withDevErr_rxLen (s : State) (v : Byte) : (s.withDevErr v).rxLen = s.rxLen := rfl
@[simp] theorem State.withDevErr_raw (s : State) (v : Byte) : (s.withDevErr v).raw = s.raw := rfl
@[simp] theorem State.withDevErr_value (s : State) (v : Byte) : (s.withDevErr v).value = s.value := rfl
@[simp] theorem State.withDevErr_strLen (s : State) (v : Byte) : (s.withDevErr v).strLen = s.strLen := rfl
@[simp] theorem State.withDevErr_flags (s : State) (v : Byte) : (s.withDevErr v).flags = s.flags := rfl
@[simp] theorem State.withDevErr_level (s : State) (v : Byte) : (s.withDevErr v).level = s.level := rfl
@[simp] theorem State.withDevErr_tx (s : State) (v : Byte) : (s.withDevErr v).tx = s.tx := rfl
@[simp] theorem State.withDevErr_txLen (s : State) (v : Byte) : (s.withDevErr v).txLen = s.txLen := rfl
@[simp] theorem State.withDevErr_desc (s : State) (v : Byte) : (s.withDevErr v).desc = s.desc := rfl
@[simp] theorem State.withDevErr_pending (s : State) (v : Byte) : (s.withDevErr v).pending = s.pending := rfl
@[simp] theorem State.withDevErr_reads (s : State) (v : Byte) : (s.withDevErr v).reads = s.reads := rfl
@[simp] theorem State.withDevErr_choices (s : State) (v : Byte) : (s.withDevErr v).choices = s.choices := rfl

/-! ### State.withFrameInfo -/

@[simp] theorem State.withFrameInfo_crcHi (s : State) (v : BitVec 24) : (s.withFrameInfo v).crcHi = s.crcHi := rfl
@[simp] theorem State.withFrameInfo_crcLo (s : State) (v : BitVec 24) : (s.withFrameInfo v).crcLo = s.crcLo := rfl
@[simp] theorem State.withFrameInfo_tempUnit (s : State) (v : BitVec 24) :
    (s.withFrameInfo v).tempUnit = s.tempUnit := rfl
@[simp] theorem State.withFrameInfo_round (s : State) (v : BitVec 24) : (s.withFrameInfo v).round = s.round := rfl
@[simp] theorem State.withFrameInfo_crcSwap (s : State) (v : BitVec 24) : (s.withFrameInfo v).crcSwap = s.crcSwap := rfl
@[simp] theorem State.withFrameInfo_lastErr (s : State) (v : BitVec 24) : (s.withFrameInfo v).lastErr = s.lastErr := rfl
@[simp] theorem State.withFrameInfo_payloadValid (s : State) (v : BitVec 24) :
    (s.withFrameInfo v).payloadValid = s.payloadValid := rfl
@[simp] theorem State.withFrameInfo_crcMatch (s : State) (v : BitVec 24) :
    (s.withFrameInfo v).crcMatch = s.crcMatch := rfl
@[simp] theorem State.withFrameInfo_errSeen (s : State) (v : BitVec 24) : (s.withFrameInfo v).errSeen = s.errSeen := rfl
@[simp] theorem State.withFrameInfo_rxOvf (s : State) (v : BitVec 24) : (s.withFrameInfo v).rxOvf = s.rxOvf := rfl
@[simp] theorem State.withFrameInfo_arg0 (s : State) (v : BitVec 24) : (s.withFrameInfo v).arg0 = s.arg0 := rfl
@[simp] theorem State.withFrameInfo_devErr (s : State) (v : BitVec 24) : (s.withFrameInfo v).devErr = s.devErr := rfl
@[simp] theorem State.withFrameInfo_frameInfo (s : State) (v : BitVec 24) : (s.withFrameInfo v).frameInfo = v := rfl
@[simp] theorem State.withFrameInfo_frameCrc (s : State) (v : BitVec 24) :
    (s.withFrameInfo v).frameCrc = s.frameCrc := rfl
@[simp] theorem State.withFrameInfo_rx (s : State) (v : BitVec 24) : (s.withFrameInfo v).rx = s.rx := rfl
@[simp] theorem State.withFrameInfo_rxLen (s : State) (v : BitVec 24) : (s.withFrameInfo v).rxLen = s.rxLen := rfl
@[simp] theorem State.withFrameInfo_raw (s : State) (v : BitVec 24) : (s.withFrameInfo v).raw = s.raw := rfl
@[simp] theorem State.withFrameInfo_value (s : State) (v : BitVec 24) : (s.withFrameInfo v).value = s.value := rfl
@[simp] theorem State.withFrameInfo_strLen (s : State) (v : BitVec 24) : (s.withFrameInfo v).strLen = s.strLen := rfl
@[simp] theorem State.withFrameInfo_flags (s : State) (v : BitVec 24) : (s.withFrameInfo v).flags = s.flags := rfl
@[simp] theorem State.withFrameInfo_level (s : State) (v : BitVec 24) : (s.withFrameInfo v).level = s.level := rfl
@[simp] theorem State.withFrameInfo_tx (s : State) (v : BitVec 24) : (s.withFrameInfo v).tx = s.tx := rfl
@[simp] theorem State.withFrameInfo_txLen (s : State) (v : BitVec 24) : (s.withFrameInfo v).txLen = s.txLen := rfl
@[simp] theorem State.withFrameInfo_desc (s : State) (v : BitVec 24) : (s.withFrameInfo v).desc = s.desc := rfl
@[simp] theorem State.withFrameInfo_pending (s : State) (v : BitVec 24) : (s.withFrameInfo v).pending = s.pending := rfl
@[simp] theorem State.withFrameInfo_reads (s : State) (v : BitVec 24) : (s.withFrameInfo v).reads = s.reads := rfl
@[simp] theorem State.withFrameInfo_choices (s : State) (v : BitVec 24) : (s.withFrameInfo v).choices = s.choices := rfl

/-! ### State.withFrameCrc -/

@[simp] theorem State.withFrameCrc_crcHi (s : State) (v : Word) : (s.withFrameCrc v).crcHi = s.crcHi := rfl
@[simp] theorem State.withFrameCrc_crcLo (s : State) (v : Word) : (s.withFrameCrc v).crcLo = s.crcLo := rfl
@[simp] theorem State.withFrameCrc_tempUnit (s : State) (v : Word) : (s.withFrameCrc v).tempUnit = s.tempUnit := rfl
@[simp] theorem State.withFrameCrc_round (s : State) (v : Word) : (s.withFrameCrc v).round = s.round := rfl
@[simp] theorem State.withFrameCrc_crcSwap (s : State) (v : Word) : (s.withFrameCrc v).crcSwap = s.crcSwap := rfl
@[simp] theorem State.withFrameCrc_lastErr (s : State) (v : Word) : (s.withFrameCrc v).lastErr = s.lastErr := rfl
@[simp] theorem State.withFrameCrc_payloadValid (s : State) (v : Word) :
    (s.withFrameCrc v).payloadValid = s.payloadValid := rfl
@[simp] theorem State.withFrameCrc_crcMatch (s : State) (v : Word) : (s.withFrameCrc v).crcMatch = s.crcMatch := rfl
@[simp] theorem State.withFrameCrc_errSeen (s : State) (v : Word) : (s.withFrameCrc v).errSeen = s.errSeen := rfl
@[simp] theorem State.withFrameCrc_rxOvf (s : State) (v : Word) : (s.withFrameCrc v).rxOvf = s.rxOvf := rfl
@[simp] theorem State.withFrameCrc_arg0 (s : State) (v : Word) : (s.withFrameCrc v).arg0 = s.arg0 := rfl
@[simp] theorem State.withFrameCrc_devErr (s : State) (v : Word) : (s.withFrameCrc v).devErr = s.devErr := rfl
@[simp] theorem State.withFrameCrc_frameInfo (s : State) (v : Word) : (s.withFrameCrc v).frameInfo = s.frameInfo := rfl
@[simp] theorem State.withFrameCrc_frameCrc (s : State) (v : Word) : (s.withFrameCrc v).frameCrc = v := rfl
@[simp] theorem State.withFrameCrc_rx (s : State) (v : Word) : (s.withFrameCrc v).rx = s.rx := rfl
@[simp] theorem State.withFrameCrc_rxLen (s : State) (v : Word) : (s.withFrameCrc v).rxLen = s.rxLen := rfl
@[simp] theorem State.withFrameCrc_raw (s : State) (v : Word) : (s.withFrameCrc v).raw = s.raw := rfl
@[simp] theorem State.withFrameCrc_value (s : State) (v : Word) : (s.withFrameCrc v).value = s.value := rfl
@[simp] theorem State.withFrameCrc_strLen (s : State) (v : Word) : (s.withFrameCrc v).strLen = s.strLen := rfl
@[simp] theorem State.withFrameCrc_flags (s : State) (v : Word) : (s.withFrameCrc v).flags = s.flags := rfl
@[simp] theorem State.withFrameCrc_level (s : State) (v : Word) : (s.withFrameCrc v).level = s.level := rfl
@[simp] theorem State.withFrameCrc_tx (s : State) (v : Word) : (s.withFrameCrc v).tx = s.tx := rfl
@[simp] theorem State.withFrameCrc_txLen (s : State) (v : Word) : (s.withFrameCrc v).txLen = s.txLen := rfl
@[simp] theorem State.withFrameCrc_desc (s : State) (v : Word) : (s.withFrameCrc v).desc = s.desc := rfl
@[simp] theorem State.withFrameCrc_pending (s : State) (v : Word) : (s.withFrameCrc v).pending = s.pending := rfl
@[simp] theorem State.withFrameCrc_reads (s : State) (v : Word) : (s.withFrameCrc v).reads = s.reads := rfl
@[simp] theorem State.withFrameCrc_choices (s : State) (v : Word) : (s.withFrameCrc v).choices = s.choices := rfl

/-! ### State.withRx -/

@[simp] theorem State.withRx_crcHi (s : State) (m : Memory) (n : Fin (Config.rxCap + 1)) :
    (s.withRx m n).crcHi = s.crcHi := rfl
@[simp] theorem State.withRx_crcLo (s : State) (m : Memory) (n : Fin (Config.rxCap + 1)) :
    (s.withRx m n).crcLo = s.crcLo := rfl
@[simp] theorem State.withRx_tempUnit (s : State) (m : Memory) (n : Fin (Config.rxCap + 1)) :
    (s.withRx m n).tempUnit = s.tempUnit := rfl
@[simp] theorem State.withRx_round (s : State) (m : Memory) (n : Fin (Config.rxCap + 1)) :
    (s.withRx m n).round = s.round := rfl
@[simp] theorem State.withRx_crcSwap (s : State) (m : Memory) (n : Fin (Config.rxCap + 1)) :
    (s.withRx m n).crcSwap = s.crcSwap := rfl
@[simp] theorem State.withRx_lastErr (s : State) (m : Memory) (n : Fin (Config.rxCap + 1)) :
    (s.withRx m n).lastErr = s.lastErr := rfl
@[simp] theorem State.withRx_payloadValid (s : State) (m : Memory) (n : Fin (Config.rxCap + 1)) :
    (s.withRx m n).payloadValid = s.payloadValid := rfl
@[simp] theorem State.withRx_crcMatch (s : State) (m : Memory) (n : Fin (Config.rxCap + 1)) :
    (s.withRx m n).crcMatch = s.crcMatch := rfl
@[simp] theorem State.withRx_errSeen (s : State) (m : Memory) (n : Fin (Config.rxCap + 1)) :
    (s.withRx m n).errSeen = s.errSeen := rfl
@[simp] theorem State.withRx_rxOvf (s : State) (m : Memory) (n : Fin (Config.rxCap + 1)) :
    (s.withRx m n).rxOvf = s.rxOvf := rfl
@[simp] theorem State.withRx_arg0 (s : State) (m : Memory) (n : Fin (Config.rxCap + 1)) :
    (s.withRx m n).arg0 = s.arg0 := rfl
@[simp] theorem State.withRx_devErr (s : State) (m : Memory) (n : Fin (Config.rxCap + 1)) :
    (s.withRx m n).devErr = s.devErr := rfl
@[simp] theorem State.withRx_frameInfo (s : State) (m : Memory) (n : Fin (Config.rxCap + 1)) :
    (s.withRx m n).frameInfo = s.frameInfo := rfl
@[simp] theorem State.withRx_frameCrc (s : State) (m : Memory) (n : Fin (Config.rxCap + 1)) :
    (s.withRx m n).frameCrc = s.frameCrc := rfl
@[simp] theorem State.withRx_rx (s : State) (m : Memory) (n : Fin (Config.rxCap + 1)) : (s.withRx m n).rx = m := rfl
@[simp] theorem State.withRx_rxLen (s : State) (m : Memory) (n : Fin (Config.rxCap + 1)) :
    (s.withRx m n).rxLen = n := rfl
@[simp] theorem State.withRx_raw (s : State) (m : Memory) (n : Fin (Config.rxCap + 1)) :
    (s.withRx m n).raw = s.raw := rfl
@[simp] theorem State.withRx_value (s : State) (m : Memory) (n : Fin (Config.rxCap + 1)) :
    (s.withRx m n).value = s.value := rfl
@[simp] theorem State.withRx_strLen (s : State) (m : Memory) (n : Fin (Config.rxCap + 1)) :
    (s.withRx m n).strLen = s.strLen := rfl
@[simp] theorem State.withRx_flags (s : State) (m : Memory) (n : Fin (Config.rxCap + 1)) :
    (s.withRx m n).flags = s.flags := rfl
@[simp] theorem State.withRx_level (s : State) (m : Memory) (n : Fin (Config.rxCap + 1)) :
    (s.withRx m n).level = s.level := rfl
@[simp] theorem State.withRx_tx (s : State) (m : Memory) (n : Fin (Config.rxCap + 1)) : (s.withRx m n).tx = s.tx := rfl
@[simp] theorem State.withRx_txLen (s : State) (m : Memory) (n : Fin (Config.rxCap + 1)) :
    (s.withRx m n).txLen = s.txLen := rfl
@[simp] theorem State.withRx_desc (s : State) (m : Memory) (n : Fin (Config.rxCap + 1)) :
    (s.withRx m n).desc = s.desc := rfl
@[simp] theorem State.withRx_pending (s : State) (m : Memory) (n : Fin (Config.rxCap + 1)) :
    (s.withRx m n).pending = s.pending := rfl
@[simp] theorem State.withRx_reads (s : State) (m : Memory) (n : Fin (Config.rxCap + 1)) :
    (s.withRx m n).reads = s.reads := rfl
@[simp] theorem State.withRx_choices (s : State) (m : Memory) (n : Fin (Config.rxCap + 1)) :
    (s.withRx m n).choices = s.choices := rfl

/-! ### State.withInteger -/

@[simp] theorem State.withInteger_crcHi (s : State) (v : Word) (w : BitVec 64) :
    (s.withInteger v w).crcHi = s.crcHi := rfl
@[simp] theorem State.withInteger_crcLo (s : State) (v : Word) (w : BitVec 64) :
    (s.withInteger v w).crcLo = s.crcLo := rfl
@[simp] theorem State.withInteger_tempUnit (s : State) (v : Word) (w : BitVec 64) :
    (s.withInteger v w).tempUnit = s.tempUnit := rfl
@[simp] theorem State.withInteger_round (s : State) (v : Word) (w : BitVec 64) :
    (s.withInteger v w).round = s.round := rfl
@[simp] theorem State.withInteger_crcSwap (s : State) (v : Word) (w : BitVec 64) :
    (s.withInteger v w).crcSwap = s.crcSwap := rfl
@[simp] theorem State.withInteger_lastErr (s : State) (v : Word) (w : BitVec 64) :
    (s.withInteger v w).lastErr = s.lastErr := rfl
@[simp] theorem State.withInteger_payloadValid (s : State) (v : Word) (w : BitVec 64) :
    (s.withInteger v w).payloadValid = s.payloadValid := rfl
@[simp] theorem State.withInteger_crcMatch (s : State) (v : Word) (w : BitVec 64) :
    (s.withInteger v w).crcMatch = s.crcMatch := rfl
@[simp] theorem State.withInteger_errSeen (s : State) (v : Word) (w : BitVec 64) :
    (s.withInteger v w).errSeen = s.errSeen := rfl
@[simp] theorem State.withInteger_rxOvf (s : State) (v : Word) (w : BitVec 64) :
    (s.withInteger v w).rxOvf = s.rxOvf := rfl
@[simp] theorem State.withInteger_arg0 (s : State) (v : Word) (w : BitVec 64) : (s.withInteger v w).arg0 = s.arg0 := rfl
@[simp] theorem State.withInteger_devErr (s : State) (v : Word) (w : BitVec 64) :
    (s.withInteger v w).devErr = s.devErr := rfl
@[simp] theorem State.withInteger_frameInfo (s : State) (v : Word) (w : BitVec 64) :
    (s.withInteger v w).frameInfo = s.frameInfo := rfl
@[simp] theorem State.withInteger_frameCrc (s : State) (v : Word) (w : BitVec 64) :
    (s.withInteger v w).frameCrc = s.frameCrc := rfl
@[simp] theorem State.withInteger_rx (s : State) (v : Word) (w : BitVec 64) : (s.withInteger v w).rx = s.rx := rfl
@[simp] theorem State.withInteger_rxLen (s : State) (v : Word) (w : BitVec 64) :
    (s.withInteger v w).rxLen = s.rxLen := rfl
@[simp] theorem State.withInteger_raw (s : State) (v : Word) (w : BitVec 64) : (s.withInteger v w).raw = v := rfl
@[simp] theorem State.withInteger_value (s : State) (v : Word) (w : BitVec 64) : (s.withInteger v w).value = w := rfl
@[simp] theorem State.withInteger_strLen (s : State) (v : Word) (w : BitVec 64) :
    (s.withInteger v w).strLen = s.strLen := rfl
@[simp] theorem State.withInteger_flags (s : State) (v : Word) (w : BitVec 64) :
    (s.withInteger v w).flags = s.flags := rfl
@[simp] theorem State.withInteger_level (s : State) (v : Word) (w : BitVec 64) :
    (s.withInteger v w).level = s.level := rfl
@[simp] theorem State.withInteger_tx (s : State) (v : Word) (w : BitVec 64) : (s.withInteger v w).tx = s.tx := rfl
@[simp] theorem State.withInteger_txLen (s : State) (v : Word) (w : BitVec 64) :
    (s.withInteger v w).txLen = s.txLen := rfl
@[simp] theorem State.withInteger_desc (s : State) (v : Word) (w : BitVec 64) : (s.withInteger v w).desc = s.desc := rfl
@[simp] theorem State.withInteger_pending (s : State) (v : Word) (w : BitVec 64) :
    (s.withInteger v w).pending = s.pending := rfl
@[simp] theorem State.withInteger_reads (s : State) (v : Word) (w : BitVec 64) :
    (s.withInteger v w).reads = s.reads := rfl
@[simp] theorem State.withInteger_choices (s : State) (v : Word) (w : BitVec 64) :
    (s.withInteger v w).choices = s.choices := rfl

/-! ### State.withStrLen -/

@[simp] theorem State.withStrLen_crcHi (s : State) (v : BitVec 8) : (s.withStrLen v).crcHi = s.crcHi := rfl
@[simp] theorem State.withStrLen_crcLo (s : State) (v : BitVec 8) : (s.withStrLen v).crcLo = s.crcLo := rfl
@[simp] theorem State.withStrLen_tempUnit (s : State) (v : BitVec 8) : (s.withStrLen v).tempUnit = s.tempUnit := rfl
@[simp] theorem State.withStrLen_round (s : State) (v : BitVec 8) : (s.withStrLen v).round = s.round := rfl
@[simp] theorem State.withStrLen_crcSwap (s : State) (v : BitVec 8) : (s.withStrLen v).crcSwap = s.crcSwap := rfl
@[simp] theorem State.withStrLen_lastErr (s : State) (v : BitVec 8) : (s.withStrLen v).lastErr = s.lastErr := rfl
@[simp] theorem State.withStrLen_payloadValid (s : State) (v : BitVec 8) :
    (s.withStrLen v).payloadValid = s.payloadValid := rfl
@[simp] theorem State.withStrLen_crcMatch (s : State) (v : BitVec 8) : (s.withStrLen v).crcMatch = s.crcMatch := rfl
@[simp] theorem State.withStrLen_errSeen (s : State) (v : BitVec 8) : (s.withStrLen v).errSeen = s.errSeen := rfl
@[simp] theorem State.withStrLen_rxOvf (s : State) (v : BitVec 8) : (s.withStrLen v).rxOvf = s.rxOvf := rfl
@[simp] theorem State.withStrLen_arg0 (s : State) (v : BitVec 8) : (s.withStrLen v).arg0 = s.arg0 := rfl
@[simp] theorem State.withStrLen_devErr (s : State) (v : BitVec 8) : (s.withStrLen v).devErr = s.devErr := rfl
@[simp] theorem State.withStrLen_frameInfo (s : State) (v : BitVec 8) : (s.withStrLen v).frameInfo = s.frameInfo := rfl
@[simp] theorem State.withStrLen_frameCrc (s : State) (v : BitVec 8) : (s.withStrLen v).frameCrc = s.frameCrc := rfl
@[simp] theorem State.withStrLen_rx (s : State) (v : BitVec 8) : (s.withStrLen v).rx = s.rx := rfl
@[simp] theorem State.withStrLen_rxLen (s : State) (v : BitVec 8) : (s.withStrLen v).rxLen = s.rxLen := rfl
@[simp] theorem State.withStrLen_raw (s : State) (v : BitVec 8) : (s.withStrLen v).raw = s.raw := rfl
@[simp] theorem State.withStrLen_value (s : State) (v : BitVec 8) : (s.withStrLen v).value = s.value := rfl
@[simp] theorem State.withStrLen_strLen (s : State) (v : BitVec 8) : (s.withStrLen v).strLen = v := rfl
@[simp] theorem State.withStrLen_flags (s : State) (v : BitVec 8) : (s.withStrLen v).flags = s.flags := rfl
@[simp] theorem State.withStrLen_level (s : State) (v : BitVec 8) : (s.withStrLen v).level = s.level := rfl
@[simp] theorem State.withStrLen_tx (s : State) (v : BitVec 8) : (s.withStrLen v).tx = s.tx := rfl
@[simp] theorem State.withStrLen_txLen (s : State) (v : BitVec 8) : (s.withStrLen v).txLen = s.txLen := rfl
@[simp] theorem State.withStrLen_desc (s : State) (v : BitVec 8) : (s.withStrLen v).desc = s.desc := rfl
@[simp] theorem State.withStrLen_pending (s : State) (v : BitVec 8) : (s.withStrLen v).pending = s.pending := rfl
@[simp] theorem State.withStrLen_reads (s : State) (v : BitVec 8) : (s.withStrLen v).reads = s.reads := rfl
@[simp] theorem State.withStrLen_choices (s : State) (v : BitVec 8) : (s.withStrLen v).choices = s.choices := rfl

/-! ### State.withFlags -/

@[simp] theorem State.withFlags_crcHi (s : State) (v : BitVec 16) : (s.withFlags v).crcHi = s.crcHi := rfl
@[simp] theorem State.withFlags_crcLo (s : State) (v : BitVec 16) : (s.withFlags v).crcLo = s.crcLo := rfl
@[simp] theorem State.withFlags_tempUnit (s : State) (v : BitVec 16) : (s.withFlags v).tempUnit = s.tempUnit := rfl
@[simp] theorem State.withFlags_round (s : State) (v : BitVec 16) : (s.withFlags v).round = s.round := rfl
@[simp] theorem State.withFlags_crcSwap (s : State) (v : BitVec 16) : (s.withFlags v).crcSwap = s.crcSwap := rfl
@[simp] theorem State.withFlags_lastErr (s : State) (v : BitVec 16) : (s.withFlags v).lastErr = s.lastErr := rfl
@[simp] theorem State.withFlags_payloadValid (s : State) (v : BitVec 16) :
    (s.withFlags v).payloadValid = s.payloadValid := rfl
@[simp] theorem State.withFlags_crcMatch (s : State) (v : BitVec 16) : (s.withFlags v).crcMatch = s.crcMatch := rfl
@[simp] theorem State.withFlags_errSeen (s : State) (v : BitVec 16) : (s.withFlags v).errSeen = s.errSeen := rfl
@[simp] theorem State.withFlags_rxOvf (s : State) (v : BitVec 16) : (s.withFlags v).rxOvf = s.rxOvf := rfl
@[simp] theorem State.withFlags_arg0 (s : State) (v : BitVec 16) : (s.withFlags v).arg0 = s.arg0 := rfl
@[simp] theorem State.withFlags_devErr (s : State) (v : BitVec 16) : (s.withFlags v).devErr = s.devErr := rfl
@[simp] theorem State.withFlags_frameInfo (s : State) (v : BitVec 16) : (s.withFlags v).frameInfo = s.frameInfo := rfl
@[simp] theorem State.withFlags_frameCrc (s : State) (v : BitVec 16) : (s.withFlags v).frameCrc = s.frameCrc := rfl
@[simp] theorem State.withFlags_rx (s : State) (v : BitVec 16) : (s.withFlags v).rx = s.rx := rfl
@[simp] theorem State.withFlags_rxLen (s : State) (v : BitVec 16) : (s.withFlags v).rxLen = s.rxLen := rfl
@[simp] theorem State.withFlags_raw (s : State) (v : BitVec 16) : (s.withFlags v).raw = s.raw := rfl
@[simp] theorem State.withFlags_value (s : State) (v : BitVec 16) : (s.withFlags v).value = s.value := rfl
@[simp] theorem State.withFlags_strLen (s : State) (v : BitVec 16) : (s.withFlags v).strLen = s.strLen := rfl
@[simp] theorem State.withFlags_flags (s : State) (v : BitVec 16) : (s.withFlags v).flags = v := rfl
@[simp] theorem State.withFlags_level (s : State) (v : BitVec 16) : (s.withFlags v).level = s.level := rfl
@[simp] theorem State.withFlags_tx (s : State) (v : BitVec 16) : (s.withFlags v).tx = s.tx := rfl
@[simp] theorem State.withFlags_txLen (s : State) (v : BitVec 16) : (s.withFlags v).txLen = s.txLen := rfl
@[simp] theorem State.withFlags_desc (s : State) (v : BitVec 16) : (s.withFlags v).desc = s.desc := rfl
@[simp] theorem State.withFlags_pending (s : State) (v : BitVec 16) : (s.withFlags v).pending = s.pending := rfl
@[simp] theorem State.withFlags_reads (s : State) (v : BitVec 16) : (s.withFlags v).reads = s.reads := rfl
@[simp] theorem State.withFlags_choices (s : State) (v : BitVec 16) : (s.withFlags v).choices = s.choices := rfl

/-! ### State.withLevel -/

@[simp] theorem State.withLevel_crcHi (s : State) (v : BitVec 2) : (s.withLevel v).crcHi = s.crcHi := rfl
@[simp] theorem State.withLevel_crcLo (s : State) (v : BitVec 2) : (s.withLevel v).crcLo = s.crcLo := rfl
@[simp] theorem State.withLevel_tempUnit (s : State) (v : BitVec 2) : (s.withLevel v).tempUnit = s.tempUnit := rfl
@[simp] theorem State.withLevel_round (s : State) (v : BitVec 2) : (s.withLevel v).round = s.round := rfl
@[simp] theorem State.withLevel_crcSwap (s : State) (v : BitVec 2) : (s.withLevel v).crcSwap = s.crcSwap := rfl
@[simp] theorem State.withLevel_lastErr (s : State) (v : BitVec 2) : (s.withLevel v).lastErr = s.lastErr := rfl
@[simp] theorem State.withLevel_payloadValid (s : State) (v : BitVec 2) :
    (s.withLevel v).payloadValid = s.payloadValid := rfl
@[simp] theorem State.withLevel_crcMatch (s : State) (v : BitVec 2) : (s.withLevel v).crcMatch = s.crcMatch := rfl
@[simp] theorem State.withLevel_errSeen (s : State) (v : BitVec 2) : (s.withLevel v).errSeen = s.errSeen := rfl
@[simp] theorem State.withLevel_rxOvf (s : State) (v : BitVec 2) : (s.withLevel v).rxOvf = s.rxOvf := rfl
@[simp] theorem State.withLevel_arg0 (s : State) (v : BitVec 2) : (s.withLevel v).arg0 = s.arg0 := rfl
@[simp] theorem State.withLevel_devErr (s : State) (v : BitVec 2) : (s.withLevel v).devErr = s.devErr := rfl
@[simp] theorem State.withLevel_frameInfo (s : State) (v : BitVec 2) : (s.withLevel v).frameInfo = s.frameInfo := rfl
@[simp] theorem State.withLevel_frameCrc (s : State) (v : BitVec 2) : (s.withLevel v).frameCrc = s.frameCrc := rfl
@[simp] theorem State.withLevel_rx (s : State) (v : BitVec 2) : (s.withLevel v).rx = s.rx := rfl
@[simp] theorem State.withLevel_rxLen (s : State) (v : BitVec 2) : (s.withLevel v).rxLen = s.rxLen := rfl
@[simp] theorem State.withLevel_raw (s : State) (v : BitVec 2) : (s.withLevel v).raw = s.raw := rfl
@[simp] theorem State.withLevel_value (s : State) (v : BitVec 2) : (s.withLevel v).value = s.value := rfl
@[simp] theorem State.withLevel_strLen (s : State) (v : BitVec 2) : (s.withLevel v).strLen = s.strLen := rfl
@[simp] theorem State.withLevel_flags (s : State) (v : BitVec 2) : (s.withLevel v).flags = s.flags := rfl
@[simp] theorem State.withLevel_level (s : State) (v : BitVec 2) : (s.withLevel v).level = v := rfl
@[simp] theorem State.withLevel_tx (s : State) (v : BitVec 2) : (s.withLevel v).tx = s.tx := rfl
@[simp] theorem State.withLevel_txLen (s : State) (v : BitVec 2) : (s.withLevel v).txLen = s.txLen := rfl
@[simp] theorem State.withLevel_desc (s : State) (v : BitVec 2) : (s.withLevel v).desc = s.desc := rfl
@[simp] theorem State.withLevel_pending (s : State) (v : BitVec 2) : (s.withLevel v).pending = s.pending := rfl
@[simp] theorem State.withLevel_reads (s : State) (v : BitVec 2) : (s.withLevel v).reads = s.reads := rfl
@[simp] theorem State.withLevel_choices (s : State) (v : BitVec 2) : (s.withLevel v).choices = s.choices := rfl

/-! ### State.withTx -/

@[simp] theorem State.withTx_crcHi (s : State) (m : Memory) (n : Fin (Config.txCap + 1)) :
    (s.withTx m n).crcHi = s.crcHi := rfl
@[simp] theorem State.withTx_crcLo (s : State) (m : Memory) (n : Fin (Config.txCap + 1)) :
    (s.withTx m n).crcLo = s.crcLo := rfl
@[simp] theorem State.withTx_tempUnit (s : State) (m : Memory) (n : Fin (Config.txCap + 1)) :
    (s.withTx m n).tempUnit = s.tempUnit := rfl
@[simp] theorem State.withTx_round (s : State) (m : Memory) (n : Fin (Config.txCap + 1)) :
    (s.withTx m n).round = s.round := rfl
@[simp] theorem State.withTx_crcSwap (s : State) (m : Memory) (n : Fin (Config.txCap + 1)) :
    (s.withTx m n).crcSwap = s.crcSwap := rfl
@[simp] theorem State.withTx_lastErr (s : State) (m : Memory) (n : Fin (Config.txCap + 1)) :
    (s.withTx m n).lastErr = s.lastErr := rfl
@[simp] theorem State.withTx_payloadValid (s : State) (m : Memory) (n : Fin (Config.txCap + 1)) :
    (s.withTx m n).payloadValid = s.payloadValid := rfl
@[simp] theorem State.withTx_crcMatch (s : State) (m : Memory) (n : Fin (Config.txCap + 1)) :
    (s.withTx m n).crcMatch = s.crcMatch := rfl
@[simp] theorem State.withTx_errSeen (s : State) (m : Memory) (n : Fin (Config.txCap + 1)) :
    (s.withTx m n).errSeen = s.errSeen := rfl
@[simp] theorem State.withTx_rxOvf (s : State) (m : Memory) (n : Fin (Config.txCap + 1)) :
    (s.withTx m n).rxOvf = s.rxOvf := rfl
@[simp] theorem State.withTx_arg0 (s : State) (m : Memory) (n : Fin (Config.txCap + 1)) :
    (s.withTx m n).arg0 = s.arg0 := rfl
@[simp] theorem State.withTx_devErr (s : State) (m : Memory) (n : Fin (Config.txCap + 1)) :
    (s.withTx m n).devErr = s.devErr := rfl
@[simp] theorem State.withTx_frameInfo (s : State) (m : Memory) (n : Fin (Config.txCap + 1)) :
    (s.withTx m n).frameInfo = s.frameInfo := rfl
@[simp] theorem State.withTx_frameCrc (s : State) (m : Memory) (n : Fin (Config.txCap + 1)) :
    (s.withTx m n).frameCrc = s.frameCrc := rfl
@[simp] theorem State.withTx_rx (s : State) (m : Memory) (n : Fin (Config.txCap + 1)) : (s.withTx m n).rx = s.rx := rfl
@[simp] theorem State.withTx_rxLen (s : State) (m : Memory) (n : Fin (Config.txCap + 1)) :
    (s.withTx m n).rxLen = s.rxLen := rfl
@[simp] theorem State.withTx_raw (s : State) (m : Memory) (n : Fin (Config.txCap + 1)) :
    (s.withTx m n).raw = s.raw := rfl
@[simp] theorem State.withTx_value (s : State) (m : Memory) (n : Fin (Config.txCap + 1)) :
    (s.withTx m n).value = s.value := rfl
@[simp] theorem State.withTx_strLen (s : State) (m : Memory) (n : Fin (Config.txCap + 1)) :
    (s.withTx m n).strLen = s.strLen := rfl
@[simp] theorem State.withTx_flags (s : State) (m : Memory) (n : Fin (Config.txCap + 1)) :
    (s.withTx m n).flags = s.flags := rfl
@[simp] theorem State.withTx_level (s : State) (m : Memory) (n : Fin (Config.txCap + 1)) :
    (s.withTx m n).level = s.level := rfl
@[simp] theorem State.withTx_tx (s : State) (m : Memory) (n : Fin (Config.txCap + 1)) : (s.withTx m n).tx = m := rfl
@[simp] theorem State.withTx_txLen (s : State) (m : Memory) (n : Fin (Config.txCap + 1)) :
    (s.withTx m n).txLen = n := rfl
@[simp] theorem State.withTx_desc (s : State) (m : Memory) (n : Fin (Config.txCap + 1)) :
    (s.withTx m n).desc = s.desc := rfl
@[simp] theorem State.withTx_pending (s : State) (m : Memory) (n : Fin (Config.txCap + 1)) :
    (s.withTx m n).pending = s.pending := rfl
@[simp] theorem State.withTx_reads (s : State) (m : Memory) (n : Fin (Config.txCap + 1)) :
    (s.withTx m n).reads = s.reads := rfl
@[simp] theorem State.withTx_choices (s : State) (m : Memory) (n : Fin (Config.txCap + 1)) :
    (s.withTx m n).choices = s.choices := rfl

/-! ### State.withDesc -/

@[simp] theorem State.withDesc_crcHi (s : State) (d : Vector Word Config.descCount) :
    (s.withDesc d).crcHi = s.crcHi := rfl
@[simp] theorem State.withDesc_crcLo (s : State) (d : Vector Word Config.descCount) :
    (s.withDesc d).crcLo = s.crcLo := rfl
@[simp] theorem State.withDesc_tempUnit (s : State) (d : Vector Word Config.descCount) :
    (s.withDesc d).tempUnit = s.tempUnit := rfl
@[simp] theorem State.withDesc_round (s : State) (d : Vector Word Config.descCount) :
    (s.withDesc d).round = s.round := rfl
@[simp] theorem State.withDesc_crcSwap (s : State) (d : Vector Word Config.descCount) :
    (s.withDesc d).crcSwap = s.crcSwap := rfl
@[simp] theorem State.withDesc_lastErr (s : State) (d : Vector Word Config.descCount) :
    (s.withDesc d).lastErr = s.lastErr := rfl
@[simp] theorem State.withDesc_payloadValid (s : State) (d : Vector Word Config.descCount) :
    (s.withDesc d).payloadValid = s.payloadValid := rfl
@[simp] theorem State.withDesc_crcMatch (s : State) (d : Vector Word Config.descCount) :
    (s.withDesc d).crcMatch = s.crcMatch := rfl
@[simp] theorem State.withDesc_errSeen (s : State) (d : Vector Word Config.descCount) :
    (s.withDesc d).errSeen = s.errSeen := rfl
@[simp] theorem State.withDesc_rxOvf (s : State) (d : Vector Word Config.descCount) :
    (s.withDesc d).rxOvf = s.rxOvf := rfl
@[simp] theorem State.withDesc_arg0 (s : State) (d : Vector Word Config.descCount) : (s.withDesc d).arg0 = s.arg0 := rfl
@[simp] theorem State.withDesc_devErr (s : State) (d : Vector Word Config.descCount) :
    (s.withDesc d).devErr = s.devErr := rfl
@[simp] theorem State.withDesc_frameInfo (s : State) (d : Vector Word Config.descCount) :
    (s.withDesc d).frameInfo = s.frameInfo := rfl
@[simp] theorem State.withDesc_frameCrc (s : State) (d : Vector Word Config.descCount) :
    (s.withDesc d).frameCrc = s.frameCrc := rfl
@[simp] theorem State.withDesc_rx (s : State) (d : Vector Word Config.descCount) : (s.withDesc d).rx = s.rx := rfl
@[simp] theorem State.withDesc_rxLen (s : State) (d : Vector Word Config.descCount) :
    (s.withDesc d).rxLen = s.rxLen := rfl
@[simp] theorem State.withDesc_raw (s : State) (d : Vector Word Config.descCount) : (s.withDesc d).raw = s.raw := rfl
@[simp] theorem State.withDesc_value (s : State) (d : Vector Word Config.descCount) :
    (s.withDesc d).value = s.value := rfl
@[simp] theorem State.withDesc_strLen (s : State) (d : Vector Word Config.descCount) :
    (s.withDesc d).strLen = s.strLen := rfl
@[simp] theorem State.withDesc_flags (s : State) (d : Vector Word Config.descCount) :
    (s.withDesc d).flags = s.flags := rfl
@[simp] theorem State.withDesc_level (s : State) (d : Vector Word Config.descCount) :
    (s.withDesc d).level = s.level := rfl
@[simp] theorem State.withDesc_tx (s : State) (d : Vector Word Config.descCount) : (s.withDesc d).tx = s.tx := rfl
@[simp] theorem State.withDesc_txLen (s : State) (d : Vector Word Config.descCount) :
    (s.withDesc d).txLen = s.txLen := rfl
@[simp] theorem State.withDesc_desc (s : State) (d : Vector Word Config.descCount) : (s.withDesc d).desc = d := rfl
@[simp] theorem State.withDesc_pending (s : State) (d : Vector Word Config.descCount) :
    (s.withDesc d).pending = s.pending := rfl
@[simp] theorem State.withDesc_reads (s : State) (d : Vector Word Config.descCount) :
    (s.withDesc d).reads = s.reads := rfl
@[simp] theorem State.withDesc_choices (s : State) (d : Vector Word Config.descCount) :
    (s.withDesc d).choices = s.choices := rfl

/-! ### State.withPending -/

@[simp] theorem State.withPending_crcHi (s : State) (l : List BusEvent) : (s.withPending l).crcHi = s.crcHi := rfl
@[simp] theorem State.withPending_crcLo (s : State) (l : List BusEvent) : (s.withPending l).crcLo = s.crcLo := rfl
@[simp] theorem State.withPending_tempUnit (s : State) (l : List BusEvent) :
    (s.withPending l).tempUnit = s.tempUnit := rfl
@[simp] theorem State.withPending_round (s : State) (l : List BusEvent) : (s.withPending l).round = s.round := rfl
@[simp] theorem State.withPending_crcSwap (s : State) (l : List BusEvent) : (s.withPending l).crcSwap = s.crcSwap := rfl
@[simp] theorem State.withPending_lastErr (s : State) (l : List BusEvent) : (s.withPending l).lastErr = s.lastErr := rfl
@[simp] theorem State.withPending_payloadValid (s : State) (l : List BusEvent) :
    (s.withPending l).payloadValid = s.payloadValid := rfl
@[simp] theorem State.withPending_crcMatch (s : State) (l : List BusEvent) :
    (s.withPending l).crcMatch = s.crcMatch := rfl
@[simp] theorem State.withPending_errSeen (s : State) (l : List BusEvent) : (s.withPending l).errSeen = s.errSeen := rfl
@[simp] theorem State.withPending_rxOvf (s : State) (l : List BusEvent) : (s.withPending l).rxOvf = s.rxOvf := rfl
@[simp] theorem State.withPending_arg0 (s : State) (l : List BusEvent) : (s.withPending l).arg0 = s.arg0 := rfl
@[simp] theorem State.withPending_devErr (s : State) (l : List BusEvent) : (s.withPending l).devErr = s.devErr := rfl
@[simp] theorem State.withPending_frameInfo (s : State) (l : List BusEvent) :
    (s.withPending l).frameInfo = s.frameInfo := rfl
@[simp] theorem State.withPending_frameCrc (s : State) (l : List BusEvent) :
    (s.withPending l).frameCrc = s.frameCrc := rfl
@[simp] theorem State.withPending_rx (s : State) (l : List BusEvent) : (s.withPending l).rx = s.rx := rfl
@[simp] theorem State.withPending_rxLen (s : State) (l : List BusEvent) : (s.withPending l).rxLen = s.rxLen := rfl
@[simp] theorem State.withPending_raw (s : State) (l : List BusEvent) : (s.withPending l).raw = s.raw := rfl
@[simp] theorem State.withPending_value (s : State) (l : List BusEvent) : (s.withPending l).value = s.value := rfl
@[simp] theorem State.withPending_strLen (s : State) (l : List BusEvent) : (s.withPending l).strLen = s.strLen := rfl
@[simp] theorem State.withPending_flags (s : State) (l : List BusEvent) : (s.withPending l).flags = s.flags := rfl
@[simp] theorem State.withPending_level (s : State) (l : List BusEvent) : (s.withPending l).level = s.level := rfl
@[simp] theorem State.withPending_tx (s : State) (l : List BusEvent) : (s.withPending l).tx = s.tx := rfl
@[simp] theorem State.withPending_txLen (s : State) (l : List BusEvent) : (s.withPending l).txLen = s.txLen := rfl
@[simp] theorem State.withPending_desc (s : State) (l : List BusEvent) : (s.withPending l).desc = s.desc := rfl
@[simp] theorem State.withPending_pending (s : State) (l : List BusEvent) : (s.withPending l).pending = l := rfl
@[simp] theorem State.withPending_reads (s : State) (l : List BusEvent) : (s.withPending l).reads = s.reads := rfl
@[simp] theorem State.withPending_choices (s : State) (l : List BusEvent) : (s.withPending l).choices = s.choices := rfl

/-! ### State.withReads -/

@[simp] theorem State.withReads_crcHi (s : State) (l : List Word) : (s.withReads l).crcHi = s.crcHi := rfl
@[simp] theorem State.withReads_crcLo (s : State) (l : List Word) : (s.withReads l).crcLo = s.crcLo := rfl
@[simp] theorem State.withReads_tempUnit (s : State) (l : List Word) : (s.withReads l).tempUnit = s.tempUnit := rfl
@[simp] theorem State.withReads_round (s : State) (l : List Word) : (s.withReads l).round = s.round := rfl
@[simp] theorem State.withReads_crcSwap (s : State) (l : List Word) : (s.withReads l).crcSwap = s.crcSwap := rfl
@[simp] theorem State.withReads_lastErr (s : State) (l : List Word) : (s.withReads l).lastErr = s.lastErr := rfl
@[simp] theorem State.withReads_payloadValid (s : State) (l : List Word) :
    (s.withReads l).payloadValid = s.payloadValid := rfl
@[simp] theorem State.withReads_crcMatch (s : State) (l : List Word) : (s.withReads l).crcMatch = s.crcMatch := rfl
@[simp] theorem State.withReads_errSeen (s : State) (l : List Word) : (s.withReads l).errSeen = s.errSeen := rfl
@[simp] theorem State.withReads_rxOvf (s : State) (l : List Word) : (s.withReads l).rxOvf = s.rxOvf := rfl
@[simp] theorem State.withReads_arg0 (s : State) (l : List Word) : (s.withReads l).arg0 = s.arg0 := rfl
@[simp] theorem State.withReads_devErr (s : State) (l : List Word) : (s.withReads l).devErr = s.devErr := rfl
@[simp] theorem State.withReads_frameInfo (s : State) (l : List Word) : (s.withReads l).frameInfo = s.frameInfo := rfl
@[simp] theorem State.withReads_frameCrc (s : State) (l : List Word) : (s.withReads l).frameCrc = s.frameCrc := rfl
@[simp] theorem State.withReads_rx (s : State) (l : List Word) : (s.withReads l).rx = s.rx := rfl
@[simp] theorem State.withReads_rxLen (s : State) (l : List Word) : (s.withReads l).rxLen = s.rxLen := rfl
@[simp] theorem State.withReads_raw (s : State) (l : List Word) : (s.withReads l).raw = s.raw := rfl
@[simp] theorem State.withReads_value (s : State) (l : List Word) : (s.withReads l).value = s.value := rfl
@[simp] theorem State.withReads_strLen (s : State) (l : List Word) : (s.withReads l).strLen = s.strLen := rfl
@[simp] theorem State.withReads_flags (s : State) (l : List Word) : (s.withReads l).flags = s.flags := rfl
@[simp] theorem State.withReads_level (s : State) (l : List Word) : (s.withReads l).level = s.level := rfl
@[simp] theorem State.withReads_tx (s : State) (l : List Word) : (s.withReads l).tx = s.tx := rfl
@[simp] theorem State.withReads_txLen (s : State) (l : List Word) : (s.withReads l).txLen = s.txLen := rfl
@[simp] theorem State.withReads_desc (s : State) (l : List Word) : (s.withReads l).desc = s.desc := rfl
@[simp] theorem State.withReads_pending (s : State) (l : List Word) : (s.withReads l).pending = s.pending := rfl
@[simp] theorem State.withReads_reads (s : State) (l : List Word) : (s.withReads l).reads = l := rfl
@[simp] theorem State.withReads_choices (s : State) (l : List Word) : (s.withReads l).choices = s.choices := rfl

/-! ### State.withChoices -/

@[simp] theorem State.withChoices_crcHi (s : State) (n : Nat) : (s.withChoices n).crcHi = s.crcHi := rfl
@[simp] theorem State.withChoices_crcLo (s : State) (n : Nat) : (s.withChoices n).crcLo = s.crcLo := rfl
@[simp] theorem State.withChoices_tempUnit (s : State) (n : Nat) : (s.withChoices n).tempUnit = s.tempUnit := rfl
@[simp] theorem State.withChoices_round (s : State) (n : Nat) : (s.withChoices n).round = s.round := rfl
@[simp] theorem State.withChoices_crcSwap (s : State) (n : Nat) : (s.withChoices n).crcSwap = s.crcSwap := rfl
@[simp] theorem State.withChoices_lastErr (s : State) (n : Nat) : (s.withChoices n).lastErr = s.lastErr := rfl
@[simp] theorem State.withChoices_payloadValid (s : State) (n : Nat) :
    (s.withChoices n).payloadValid = s.payloadValid := rfl
@[simp] theorem State.withChoices_crcMatch (s : State) (n : Nat) : (s.withChoices n).crcMatch = s.crcMatch := rfl
@[simp] theorem State.withChoices_errSeen (s : State) (n : Nat) : (s.withChoices n).errSeen = s.errSeen := rfl
@[simp] theorem State.withChoices_rxOvf (s : State) (n : Nat) : (s.withChoices n).rxOvf = s.rxOvf := rfl
@[simp] theorem State.withChoices_arg0 (s : State) (n : Nat) : (s.withChoices n).arg0 = s.arg0 := rfl
@[simp] theorem State.withChoices_devErr (s : State) (n : Nat) : (s.withChoices n).devErr = s.devErr := rfl
@[simp] theorem State.withChoices_frameInfo (s : State) (n : Nat) : (s.withChoices n).frameInfo = s.frameInfo := rfl
@[simp] theorem State.withChoices_frameCrc (s : State) (n : Nat) : (s.withChoices n).frameCrc = s.frameCrc := rfl
@[simp] theorem State.withChoices_rx (s : State) (n : Nat) : (s.withChoices n).rx = s.rx := rfl
@[simp] theorem State.withChoices_rxLen (s : State) (n : Nat) : (s.withChoices n).rxLen = s.rxLen := rfl
@[simp] theorem State.withChoices_raw (s : State) (n : Nat) : (s.withChoices n).raw = s.raw := rfl
@[simp] theorem State.withChoices_value (s : State) (n : Nat) : (s.withChoices n).value = s.value := rfl
@[simp] theorem State.withChoices_strLen (s : State) (n : Nat) : (s.withChoices n).strLen = s.strLen := rfl
@[simp] theorem State.withChoices_flags (s : State) (n : Nat) : (s.withChoices n).flags = s.flags := rfl
@[simp] theorem State.withChoices_level (s : State) (n : Nat) : (s.withChoices n).level = s.level := rfl
@[simp] theorem State.withChoices_tx (s : State) (n : Nat) : (s.withChoices n).tx = s.tx := rfl
@[simp] theorem State.withChoices_txLen (s : State) (n : Nat) : (s.withChoices n).txLen = s.txLen := rfl
@[simp] theorem State.withChoices_desc (s : State) (n : Nat) : (s.withChoices n).desc = s.desc := rfl
@[simp] theorem State.withChoices_pending (s : State) (n : Nat) : (s.withChoices n).pending = s.pending := rfl
@[simp] theorem State.withChoices_reads (s : State) (n : Nat) : (s.withChoices n).reads = s.reads := rfl
@[simp] theorem State.withChoices_choices (s : State) (n : Nat) : (s.withChoices n).choices = n := rfl

/-! ### State.withError -/

@[simp] theorem State.withError_crcHi (s : State) (e : CmdError) : (s.withError e).crcHi = s.crcHi := rfl
@[simp] theorem State.withError_crcLo (s : State) (e : CmdError) : (s.withError e).crcLo = s.crcLo := rfl
@[simp] theorem State.withError_tempUnit (s : State) (e : CmdError) : (s.withError e).tempUnit = s.tempUnit := rfl
@[simp] theorem State.withError_round (s : State) (e : CmdError) : (s.withError e).round = s.round := rfl
@[simp] theorem State.withError_crcSwap (s : State) (e : CmdError) : (s.withError e).crcSwap = s.crcSwap := rfl
@[simp] theorem State.withError_lastErr (s : State) (e : CmdError) : (s.withError e).lastErr = some e := rfl
@[simp] theorem State.withError_payloadValid (s : State) (e : CmdError) :
    (s.withError e).payloadValid = s.payloadValid := rfl
@[simp] theorem State.withError_crcMatch (s : State) (e : CmdError) : (s.withError e).crcMatch = s.crcMatch := rfl
@[simp] theorem State.withError_errSeen (s : State) (e : CmdError) : (s.withError e).errSeen = true := rfl
@[simp] theorem State.withError_rxOvf (s : State) (e : CmdError) : (s.withError e).rxOvf = s.rxOvf := rfl
@[simp] theorem State.withError_arg0 (s : State) (e : CmdError) : (s.withError e).arg0 = s.arg0 := rfl
@[simp] theorem State.withError_devErr (s : State) (e : CmdError) : (s.withError e).devErr = s.devErr := rfl
@[simp] theorem State.withError_frameInfo (s : State) (e : CmdError) : (s.withError e).frameInfo = s.frameInfo := rfl
@[simp] theorem State.withError_frameCrc (s : State) (e : CmdError) : (s.withError e).frameCrc = s.frameCrc := rfl
@[simp] theorem State.withError_rx (s : State) (e : CmdError) : (s.withError e).rx = s.rx := rfl
@[simp] theorem State.withError_rxLen (s : State) (e : CmdError) : (s.withError e).rxLen = s.rxLen := rfl
@[simp] theorem State.withError_raw (s : State) (e : CmdError) : (s.withError e).raw = s.raw := rfl
@[simp] theorem State.withError_value (s : State) (e : CmdError) : (s.withError e).value = s.value := rfl
@[simp] theorem State.withError_strLen (s : State) (e : CmdError) : (s.withError e).strLen = s.strLen := rfl
@[simp] theorem State.withError_flags (s : State) (e : CmdError) : (s.withError e).flags = s.flags := rfl
@[simp] theorem State.withError_level (s : State) (e : CmdError) : (s.withError e).level = s.level := rfl
@[simp] theorem State.withError_tx (s : State) (e : CmdError) : (s.withError e).tx = s.tx := rfl
@[simp] theorem State.withError_txLen (s : State) (e : CmdError) : (s.withError e).txLen = s.txLen := rfl
@[simp] theorem State.withError_desc (s : State) (e : CmdError) : (s.withError e).desc = s.desc := rfl
@[simp] theorem State.withError_pending (s : State) (e : CmdError) : (s.withError e).pending = s.pending := rfl
@[simp] theorem State.withError_reads (s : State) (e : CmdError) : (s.withError e).reads = s.reads := rfl
@[simp] theorem State.withError_choices (s : State) (e : CmdError) : (s.withError e).choices = s.choices := rfl

/-! ### State.withOk -/

@[simp] theorem State.withOk_crcHi (s : State) : (s.withOk).crcHi = s.crcHi := rfl
@[simp] theorem State.withOk_crcLo (s : State) : (s.withOk).crcLo = s.crcLo := rfl
@[simp] theorem State.withOk_tempUnit (s : State) : (s.withOk).tempUnit = s.tempUnit := rfl
@[simp] theorem State.withOk_round (s : State) : (s.withOk).round = s.round := rfl
@[simp] theorem State.withOk_crcSwap (s : State) : (s.withOk).crcSwap = s.crcSwap := rfl
@[simp] theorem State.withOk_lastErr (s : State) : (s.withOk).lastErr = none := rfl
@[simp] theorem State.withOk_payloadValid (s : State) : (s.withOk).payloadValid = s.payloadValid := rfl
@[simp] theorem State.withOk_crcMatch (s : State) : (s.withOk).crcMatch = s.crcMatch := rfl
@[simp] theorem State.withOk_errSeen (s : State) : (s.withOk).errSeen = s.errSeen := rfl
@[simp] theorem State.withOk_rxOvf (s : State) : (s.withOk).rxOvf = s.rxOvf := rfl
@[simp] theorem State.withOk_arg0 (s : State) : (s.withOk).arg0 = s.arg0 := rfl
@[simp] theorem State.withOk_devErr (s : State) : (s.withOk).devErr = s.devErr := rfl
@[simp] theorem State.withOk_frameInfo (s : State) : (s.withOk).frameInfo = s.frameInfo := rfl
@[simp] theorem State.withOk_frameCrc (s : State) : (s.withOk).frameCrc = s.frameCrc := rfl
@[simp] theorem State.withOk_rx (s : State) : (s.withOk).rx = s.rx := rfl
@[simp] theorem State.withOk_rxLen (s : State) : (s.withOk).rxLen = s.rxLen := rfl
@[simp] theorem State.withOk_raw (s : State) : (s.withOk).raw = s.raw := rfl
@[simp] theorem State.withOk_value (s : State) : (s.withOk).value = s.value := rfl
@[simp] theorem State.withOk_strLen (s : State) : (s.withOk).strLen = s.strLen := rfl
@[simp] theorem State.withOk_flags (s : State) : (s.withOk).flags = s.flags := rfl
@[simp] theorem State.withOk_level (s : State) : (s.withOk).level = s.level := rfl
@[simp] theorem State.withOk_tx (s : State) : (s.withOk).tx = s.tx := rfl
@[simp] theorem State.withOk_txLen (s : State) : (s.withOk).txLen = s.txLen := rfl
@[simp] theorem State.withOk_desc (s : State) : (s.withOk).desc = s.desc := rfl
@[simp] theorem State.withOk_pending (s : State) : (s.withOk).pending = s.pending := rfl
@[simp] theorem State.withOk_reads (s : State) : (s.withOk).reads = s.reads := rfl
@[simp] theorem State.withOk_choices (s : State) : (s.withOk).choices = s.choices := rfl

/-! ### State.writeCtrl -/

@[simp] theorem State.writeCtrl_crcHi (s : State) (v : Word) : (s.writeCtrl v).crcHi = s.crcHi := rfl
@[simp] theorem State.writeCtrl_crcLo (s : State) (v : Word) : (s.writeCtrl v).crcLo = s.crcLo := rfl
@[simp] theorem State.writeCtrl_tempUnit (s : State) (v : Word) :
    (s.writeCtrl v).tempUnit = s.tempUnit.afterWrite (v.extractLsb' 0 2) := rfl
@[simp] theorem State.writeCtrl_round (s : State) (v : Word) :
    (s.writeCtrl v).round = (if v.getLsbD 2 then .awayFromZero else .toEven) := rfl
@[simp] theorem State.writeCtrl_crcSwap (s : State) (v : Word) : (s.writeCtrl v).crcSwap = v.getLsbD 3 := rfl
@[simp] theorem State.writeCtrl_lastErr (s : State) (v : Word) : (s.writeCtrl v).lastErr = s.lastErr := rfl
@[simp] theorem State.writeCtrl_payloadValid (s : State) (v : Word) :
    (s.writeCtrl v).payloadValid = s.payloadValid := rfl
@[simp] theorem State.writeCtrl_crcMatch (s : State) (v : Word) : (s.writeCtrl v).crcMatch = s.crcMatch := rfl
@[simp] theorem State.writeCtrl_errSeen (s : State) (v : Word) : (s.writeCtrl v).errSeen = s.errSeen := rfl
@[simp] theorem State.writeCtrl_rxOvf (s : State) (v : Word) : (s.writeCtrl v).rxOvf = s.rxOvf := rfl
@[simp] theorem State.writeCtrl_arg0 (s : State) (v : Word) : (s.writeCtrl v).arg0 = s.arg0 := rfl
@[simp] theorem State.writeCtrl_devErr (s : State) (v : Word) : (s.writeCtrl v).devErr = s.devErr := rfl
@[simp] theorem State.writeCtrl_frameInfo (s : State) (v : Word) : (s.writeCtrl v).frameInfo = s.frameInfo := rfl
@[simp] theorem State.writeCtrl_frameCrc (s : State) (v : Word) : (s.writeCtrl v).frameCrc = s.frameCrc := rfl
@[simp] theorem State.writeCtrl_rx (s : State) (v : Word) : (s.writeCtrl v).rx = s.rx := rfl
@[simp] theorem State.writeCtrl_rxLen (s : State) (v : Word) : (s.writeCtrl v).rxLen = s.rxLen := rfl
@[simp] theorem State.writeCtrl_raw (s : State) (v : Word) : (s.writeCtrl v).raw = s.raw := rfl
@[simp] theorem State.writeCtrl_value (s : State) (v : Word) : (s.writeCtrl v).value = s.value := rfl
@[simp] theorem State.writeCtrl_strLen (s : State) (v : Word) : (s.writeCtrl v).strLen = s.strLen := rfl
@[simp] theorem State.writeCtrl_flags (s : State) (v : Word) : (s.writeCtrl v).flags = s.flags := rfl
@[simp] theorem State.writeCtrl_level (s : State) (v : Word) : (s.writeCtrl v).level = s.level := rfl
@[simp] theorem State.writeCtrl_tx (s : State) (v : Word) : (s.writeCtrl v).tx = s.tx := rfl
@[simp] theorem State.writeCtrl_txLen (s : State) (v : Word) : (s.writeCtrl v).txLen = s.txLen := rfl
@[simp] theorem State.writeCtrl_desc (s : State) (v : Word) : (s.writeCtrl v).desc = s.desc := rfl
@[simp] theorem State.writeCtrl_pending (s : State) (v : Word) : (s.writeCtrl v).pending = s.pending := rfl
@[simp] theorem State.writeCtrl_reads (s : State) (v : Word) : (s.writeCtrl v).reads = s.reads := rfl
@[simp] theorem State.writeCtrl_choices (s : State) (v : Word) : (s.writeCtrl v).choices = s.choices := rfl

/-! ### State.clearSticky -/

@[simp] theorem State.clearSticky_crcHi (s : State) (v : Word) : (s.clearSticky v).crcHi = s.crcHi := rfl
@[simp] theorem State.clearSticky_crcLo (s : State) (v : Word) : (s.clearSticky v).crcLo = s.crcLo := rfl
@[simp] theorem State.clearSticky_tempUnit (s : State) (v : Word) : (s.clearSticky v).tempUnit = s.tempUnit := rfl
@[simp] theorem State.clearSticky_round (s : State) (v : Word) : (s.clearSticky v).round = s.round := rfl
@[simp] theorem State.clearSticky_crcSwap (s : State) (v : Word) : (s.clearSticky v).crcSwap = s.crcSwap := rfl
@[simp] theorem State.clearSticky_lastErr (s : State) (v : Word) : (s.clearSticky v).lastErr = s.lastErr := rfl
@[simp] theorem State.clearSticky_payloadValid (s : State) (v : Word) :
    (s.clearSticky v).payloadValid = s.payloadValid := rfl
@[simp] theorem State.clearSticky_crcMatch (s : State) (v : Word) : (s.clearSticky v).crcMatch = s.crcMatch := rfl
@[simp] theorem State.clearSticky_errSeen (s : State) (v : Word) :
    (s.clearSticky v).errSeen = (s.errSeen && !v.getLsbD 8) := rfl
@[simp] theorem State.clearSticky_rxOvf (s : State) (v : Word) :
    (s.clearSticky v).rxOvf = (s.rxOvf && !v.getLsbD 9) := rfl
@[simp] theorem State.clearSticky_arg0 (s : State) (v : Word) : (s.clearSticky v).arg0 = s.arg0 := rfl
@[simp] theorem State.clearSticky_devErr (s : State) (v : Word) : (s.clearSticky v).devErr = s.devErr := rfl
@[simp] theorem State.clearSticky_frameInfo (s : State) (v : Word) : (s.clearSticky v).frameInfo = s.frameInfo := rfl
@[simp] theorem State.clearSticky_frameCrc (s : State) (v : Word) : (s.clearSticky v).frameCrc = s.frameCrc := rfl
@[simp] theorem State.clearSticky_rx (s : State) (v : Word) : (s.clearSticky v).rx = s.rx := rfl
@[simp] theorem State.clearSticky_rxLen (s : State) (v : Word) : (s.clearSticky v).rxLen = s.rxLen := rfl
@[simp] theorem State.clearSticky_raw (s : State) (v : Word) : (s.clearSticky v).raw = s.raw := rfl
@[simp] theorem State.clearSticky_value (s : State) (v : Word) : (s.clearSticky v).value = s.value := rfl
@[simp] theorem State.clearSticky_strLen (s : State) (v : Word) : (s.clearSticky v).strLen = s.strLen := rfl
@[simp] theorem State.clearSticky_flags (s : State) (v : Word) : (s.clearSticky v).flags = s.flags := rfl
@[simp] theorem State.clearSticky_level (s : State) (v : Word) : (s.clearSticky v).level = s.level := rfl
@[simp] theorem State.clearSticky_tx (s : State) (v : Word) : (s.clearSticky v).tx = s.tx := rfl
@[simp] theorem State.clearSticky_txLen (s : State) (v : Word) : (s.clearSticky v).txLen = s.txLen := rfl
@[simp] theorem State.clearSticky_desc (s : State) (v : Word) : (s.clearSticky v).desc = s.desc := rfl
@[simp] theorem State.clearSticky_pending (s : State) (v : Word) : (s.clearSticky v).pending = s.pending := rfl
@[simp] theorem State.clearSticky_reads (s : State) (v : Word) : (s.clearSticky v).reads = s.reads := rfl
@[simp] theorem State.clearSticky_choices (s : State) (v : Word) : (s.clearSticky v).choices = s.choices := rfl

/-! ### State.afterReset -/

@[simp] theorem State.afterReset_crcHi (s : State) : s.afterReset.crcHi = State.reset.crcHi := rfl
@[simp] theorem State.afterReset_crcLo (s : State) : s.afterReset.crcLo = State.reset.crcLo := rfl
@[simp] theorem State.afterReset_tempUnit (s : State) : s.afterReset.tempUnit = State.reset.tempUnit := rfl
@[simp] theorem State.afterReset_round (s : State) : s.afterReset.round = State.reset.round := rfl
@[simp] theorem State.afterReset_crcSwap (s : State) : s.afterReset.crcSwap = State.reset.crcSwap := rfl
@[simp] theorem State.afterReset_lastErr (s : State) : s.afterReset.lastErr = State.reset.lastErr := rfl
@[simp] theorem State.afterReset_payloadValid (s : State) : s.afterReset.payloadValid = State.reset.payloadValid := rfl
@[simp] theorem State.afterReset_crcMatch (s : State) : s.afterReset.crcMatch = State.reset.crcMatch := rfl
@[simp] theorem State.afterReset_errSeen (s : State) : s.afterReset.errSeen = State.reset.errSeen := rfl
@[simp] theorem State.afterReset_rxOvf (s : State) : s.afterReset.rxOvf = State.reset.rxOvf := rfl
@[simp] theorem State.afterReset_arg0 (s : State) : s.afterReset.arg0 = State.reset.arg0 := rfl
@[simp] theorem State.afterReset_devErr (s : State) : s.afterReset.devErr = State.reset.devErr := rfl
@[simp] theorem State.afterReset_frameInfo (s : State) : s.afterReset.frameInfo = State.reset.frameInfo := rfl
@[simp] theorem State.afterReset_frameCrc (s : State) : s.afterReset.frameCrc = State.reset.frameCrc := rfl
@[simp] theorem State.afterReset_rx (s : State) : s.afterReset.rx = State.reset.rx := rfl
@[simp] theorem State.afterReset_rxLen (s : State) : s.afterReset.rxLen = State.reset.rxLen := rfl
@[simp] theorem State.afterReset_raw (s : State) : s.afterReset.raw = State.reset.raw := rfl
@[simp] theorem State.afterReset_value (s : State) : s.afterReset.value = State.reset.value := rfl
@[simp] theorem State.afterReset_strLen (s : State) : s.afterReset.strLen = State.reset.strLen := rfl
@[simp] theorem State.afterReset_flags (s : State) : s.afterReset.flags = State.reset.flags := rfl
@[simp] theorem State.afterReset_level (s : State) : s.afterReset.level = State.reset.level := rfl
@[simp] theorem State.afterReset_tx (s : State) : s.afterReset.tx = State.reset.tx := rfl
@[simp] theorem State.afterReset_txLen (s : State) : s.afterReset.txLen = State.reset.txLen := rfl
@[simp] theorem State.afterReset_desc (s : State) : s.afterReset.desc = State.reset.desc := rfl
@[simp] theorem State.afterReset_pending (s : State) : s.afterReset.pending = s.pending := rfl
@[simp] theorem State.afterReset_reads (s : State) : s.afterReset.reads = s.reads := rfl
@[simp] theorem State.afterReset_choices (s : State) : s.afterReset.choices = s.choices := rfl

/-! ### Views -/

@[simp] theorem State.withAcc_acc (s : State) (p : Byte × Byte) : (s.withAcc p).acc = p := rfl

@[simp] theorem State.withOk_acc (s : State) : s.withOk.acc = s.acc := rfl

end Sys2Proof.Machine
end

