-- ==== Sys2Proof/Laws/Memory.lean ====
section
/-!
SUPPORT. The laws of the byte arrays: a read after a write, the canonical form and the bound kept by every write,
and that a canonical array is determined by its reads.
-/

namespace Sys2Proof.Machine

/-- The head's index is below every later index, and the tail is canonical. -/
theorem Memory.wf_cons {k : Nat} {b : Byte} {m : Memory} (h : Memory.wf ((k, b) :: m) = true) :
    b ≠ 0#8 ∧ (∀ c ∈ m, k < c.1) ∧ m.wf = true := by
  simpa [Memory.wf, and_assoc] using h

theorem Memory.wf_cons_intro {k : Nat} {b : Byte} {m : Memory} (hb : b ≠ 0#8) (hk : ∀ c ∈ m, k < c.1)
    (hm : m.wf = true) : Memory.wf ((k, b) :: m) = true := by
  simp [Memory.wf, hb, hm]
  exact fun a b h => hk (a, b) h

theorem Memory.read_of_lt {m : Memory} {a : Nat} (h : ∀ c ∈ m, a < c.1) : m.read a = 0#8 := by
  induction m with
  | nil => rfl
  | cons c m ih =>
    obtain ⟨k, b⟩ := c
    have hk : a < k := h (k, b) (by simp)
    simp only [Memory.read]
    rw [if_neg (by omega)]
    exact ih fun c hc => h c (List.mem_cons_of_mem _ hc)

/-- The indexes that a write can leave in the list. -/
theorem Memory.mem_write {m : Memory} {a : Nat} {b : Byte} {c : Host.Cell} (h : c ∈ m.write a b) :
    c ∈ m ∨ c = (a, b) := by
  induction m with
  | nil =>
    simp only [Memory.write] at h
    split at h <;> simp_all
  | cons d m ih =>
    obtain ⟨k, e⟩ := d
    simp only [Memory.write] at h
    split at h
    · split at h <;> (simp at h ⊢; tauto)
    · split at h
      · split at h <;> (simp at h ⊢; tauto)
      · rcases List.mem_cons.1 h with h | h
        · exact .inl (h ▸ List.mem_cons_self ..)
        · rcases ih h with h | h
          · exact .inl (List.mem_cons_of_mem _ h)
          · exact .inr h

/-- A write keeps the canonical form. -/
theorem Memory.write_wf {m : Memory} (h : m.wf = true) (a : Nat) (b : Byte) : (m.write a b).wf = true := by
  induction m with
  | nil =>
    simp only [Memory.write]
    split
    · rfl
    · exact Memory.wf_cons_intro ‹_› (by simp) rfl
  | cons d m ih =>
    obtain ⟨k, e⟩ := d
    obtain ⟨he, hk, hm⟩ := Memory.wf_cons h
    simp only [Memory.write]
    split
    · split
      · exact h
      · refine Memory.wf_cons_intro ‹_› (fun c hc => ?_) h
        rcases List.mem_cons.1 hc with rfl | hc
        · assumption
        · exact lt_trans ‹_› (hk c hc)
    · split
      · subst_vars
        split
        · exact hm
        · exact Memory.wf_cons_intro ‹_› hk hm
      · refine Memory.wf_cons_intro he (fun c hc => ?_) (ih hm)
        rcases Memory.mem_write hc with hc | rfl
        · exact hk c hc
        · simp only; omega

/-- A read after a write: the written byte at its index, every other byte as before. -/
theorem Memory.read_write {m : Memory} (h : m.wf = true) (a : Nat) (b : Byte) (x : Nat) :
    (m.write a b).read x = if x = a then b else m.read x := by
  induction m with
  | nil =>
    simp only [Memory.write]
    split
    · subst_vars; simp [Memory.read]
    · simp only [Memory.read, eq_comm]
  | cons d m ih =>
    obtain ⟨k, e⟩ := d
    obtain ⟨he, hk, hm⟩ := Memory.wf_cons h
    simp only [Memory.write]
    split
    · have hlt : ∀ c ∈ (k, e) :: m, a < c.1 := by
        intro c hc
        rcases List.mem_cons.1 hc with rfl | hc
        · assumption
        · exact lt_trans ‹_› (hk c hc)
      split
      · subst_vars
        by_cases hx : x = a
        · subst hx; simp [Memory.read_of_lt hlt]
        · simp [hx]
      · simp only [Memory.read]
        by_cases hx : x = a
        · simp [hx]
        · simp [hx, Ne.symm hx]
    · split
      · subst_vars
        split
        · subst_vars
          by_cases hx : x = k
          · subst hx; simp [Memory.read_of_lt hk]
          · simp [Memory.read, hx, Ne.symm hx]
        · by_cases hx : x = k
          · simp [Memory.read, hx]
          · simp [Memory.read, hx, Ne.symm hx]
      · simp only [Memory.read, ih hm]
        by_cases hx : x = a
        · subst hx; simp; omega
        · simp [hx]

theorem Memory.read_write_self {m : Memory} (h : m.wf = true) (a : Nat) (b : Byte) : (m.write a b).read a = b := by
  simp [Memory.read_write h]

theorem Memory.read_write_ne {m : Memory} (h : m.wf = true) {a x : Nat} (b : Byte) (hx : x ≠ a) :
    (m.write a b).read x = m.read x := by
  simp [Memory.read_write h, hx]

/-- A write inside the array leaves it inside its bound. -/
theorem Memory.write_below {m : Memory} {n : Nat} (h : m.below n = true) {a : Nat} (ha : a < n) (b : Byte) :
    (m.write a b).below n = true := by
  simp only [Memory.below, List.all_eq_true, decide_eq_true_eq] at h ⊢
  intro c hc
  rcases Memory.mem_write hc with hc | rfl
  · exact h c hc
  · exact ha

theorem Memory.writeList_wf {m : Memory} (h : m.wf = true) (a : Nat) (bs : List Byte) :
    (m.writeList a bs).wf = true := by
  induction bs generalizing m a with
  | nil => exact h
  | cons b bs ih => exact ih (Memory.write_wf h a b) (a + 1)

theorem Memory.writeList_below {m : Memory} {n : Nat} (h : m.below n = true) (a : Nat) (bs : List Byte)
    (ha : a + bs.length ≤ n) : (m.writeList a bs).below n = true := by
  induction bs generalizing m a with
  | nil => exact h
  | cons b bs ih =>
    simp only [List.length_cons] at ha
    exact ih (Memory.write_below h (by omega) b) (a + 1) (by omega)

/-- A read after bytes were stored one after another. -/
theorem Memory.read_writeList {m : Memory} (h : m.wf = true) (a : Nat) (bs : List Byte) (x : Nat) :
    (m.writeList a bs).read x = if a ≤ x ∧ x < a + bs.length then bs.getD (x - a) 0#8 else m.read x := by
  induction bs generalizing m a with
  | nil => simp [Memory.writeList]
  | cons b bs ih =>
    simp only [Memory.writeList, ih (Memory.write_wf h a b), Memory.read_write h, List.length_cons]
    by_cases h1 : x = a
    · subst h1; simp
    · by_cases h2 : a ≤ x ∧ x < a + (bs.length + 1)
      · rw [if_pos (by omega), if_pos h2, show x - a = (x - (a + 1)) + 1 by omega]
        simp
      · rw [if_neg (by omega), if_neg h2, if_neg h1]

/-- Two canonical arrays that read alike are the same list. -/
theorem Memory.ext_of_read {m n : Memory} (hm : m.wf = true) (hn : n.wf = true)
    (h : ∀ a, m.read a = n.read a) : m = n := by
  induction m generalizing n with
  | nil =>
    cases n with
    | nil => rfl
    | cons d n =>
      obtain ⟨k, b⟩ := d
      have := h k
      simp [Memory.read] at this
      exact absurd this.symm (Memory.wf_cons hn).1
  | cons c m ih =>
    obtain ⟨k, b⟩ := c
    obtain ⟨hb, hk, hm'⟩ := Memory.wf_cons hm
    cases n with
    | nil =>
      have := h k
      simp [Memory.read] at this
      exact absurd this hb
    | cons d n =>
      obtain ⟨j, e⟩ := d
      obtain ⟨he, hj, hn'⟩ := Memory.wf_cons hn
      have hjk : j = k := by
        rcases lt_trichotomy j k with hlt | heq | hgt
        · have := h j
          rw [Memory.read_of_lt (a := j)] at this
          · simp [Memory.read] at this; exact absurd this.symm he
          · intro c hc
            rcases List.mem_cons.1 hc with rfl | hc
            · exact hlt
            · exact hlt.trans (hk c hc)
        · exact heq
        · have := h k
          rw [Memory.read_of_lt (m := (j, e) :: n) (a := k)] at this
          · simp [Memory.read] at this; exact absurd this hb
          · intro c hc
            rcases List.mem_cons.1 hc with rfl | hc
            · exact hgt
            · exact hgt.trans (hj c hc)
      subst hjk
      have hbe : b = e := by simpa [Memory.read] using h j
      subst hbe
      have htail : m = n := by
        apply ih hm' hn'
        intro a
        by_cases ha : j = a
        · subst ha; rw [Memory.read_of_lt hk, Memory.read_of_lt hj]
        · simpa [Memory.read, ha] using h a
      rw [htail]

/-! ### Slices -/

@[simp] theorem Memory.length_slice (m : Memory) (a n : Nat) : (m.slice a n).length = n := by
  simp [Memory.slice]

theorem Memory.slice_congr {m n : Memory} {a k : Nat} (h : ∀ j, j < k → m.read (a + j) = n.read (a + j)) :
    m.slice a k = n.slice a k := by
  simp only [Memory.slice]
  exact List.map_congr_left fun j hj => h j (List.mem_range.1 hj)

theorem Memory.slice_succ (m : Memory) (a n : Nat) : m.slice a (n + 1) = m.slice a n ++ [m.read (a + n)] := by
  simp [Memory.slice, List.range_succ]

@[simp] theorem Memory.slice_zero (m : Memory) (a : Nat) : m.slice a 0 = [] := rfl

end Sys2Proof.Machine
end

