-- ==== Sys2Proof/Laws/Crc.lean ====
section
/-!
SUPPORT. The laws of the CRC functions: folding over appended bytes, and what a shift of the bit-serial loop does to
an exclusive or.
-/

namespace Sys2Proof.Machine

@[simp] theorem crcFold_nil (p : Byte × Byte) : crcFold p [] = p := rfl

@[simp] theorem crcFold_cons (p : Byte × Byte) (b : Byte) (bs : List Byte) :
    crcFold p (b :: bs) = crcFold (crcStepTbl p.1 p.2 b) bs := rfl

theorem crcFold_append (p : Byte × Byte) (as bs : List Byte) :
    crcFold p (as ++ bs) = crcFold (crcFold p as) bs := by
  simp [crcFold]

@[simp] theorem wireOrder_false (p : Byte × Byte) : wireOrder false p = p := rfl

@[simp] theorem wireOrder_true (p : Byte × Byte) : wireOrder true p = (p.2, p.1) := rfl

theorem wireOrder_involutive (swap : Bool) (p : Byte × Byte) : wireOrder swap (wireOrder swap p) = p := by
  cases swap <;> rfl

/-- One shift is linear over exclusive or. -/
theorem crcShift_xor (c d : BitVec 16) : crcShift (c ^^^ d) = crcShift c ^^^ crcShift d := by
  have hx : ∀ x y z : BitVec 16, x ^^^ z ^^^ (y ^^^ z) = x ^^^ y := by
    intro x y z
    rw [BitVec.xor_assoc, BitVec.xor_comm y z, ← BitVec.xor_assoc z z, BitVec.xor_self, BitVec.zero_xor]
  simp only [crcShift, BitVec.getLsbD_xor, BitVec.ushiftRight_xor_distrib]
  cases c.getLsbD 0 <;> cases d.getLsbD 0 <;>
    simp only [Bool.xor_false, Bool.xor_true, Bool.not_true, Bool.not_false, if_true, if_false,
      Bool.false_eq_true, hx]
  · rw [BitVec.xor_assoc]
  · rw [BitVec.xor_assoc, BitVec.xor_assoc, BitVec.xor_comm (0xA001#16)]

theorem crcShifts_xor (n : Nat) (c d : BitVec 16) : crcShifts n (c ^^^ d) = crcShifts n c ^^^ crcShifts n d := by
  induction n generalizing c d with
  | zero => rfl
  | succ n ih => simp only [crcShifts, crcShift_xor, ih]

end Sys2Proof.Machine
end

