-- ==== Sys2Proof/Laws/Encoding.lean ====
section
/-!
SUPPORT. The fields of a command word, and the mask of an opcode row said field by field.
-/

namespace Sys2Proof

@[simp] theorem fieldOpc_commandWord (opc a : BitVec 8) (b : BitVec 16) : fieldOpc (commandWord opc a b) = opc := by
  apply BitVec.eq_of_getLsbD_eq
  intro i hi
  rw [fieldOpc, BitVec.getLsbD_extractLsb', commandWord, BitVec.getLsbD_append]
  simp [hi]

@[simp] theorem fieldA_commandWord (opc a : BitVec 8) (b : BitVec 16) : fieldA (commandWord opc a b) = a := by
  apply BitVec.eq_of_getLsbD_eq
  intro i hi
  have h : ¬8 + i < 8 := by omega
  rw [fieldA, BitVec.getLsbD_extractLsb', commandWord, BitVec.getLsbD_append, BitVec.getLsbD_append]
  simp [hi, h]

@[simp] theorem fieldB_commandWord (opc a : BitVec 8) (b : BitVec 16) : fieldB (commandWord opc a b) = b := by
  apply BitVec.eq_of_getLsbD_eq
  intro i hi
  rw [fieldB, BitVec.getLsbD_extractLsb', commandWord, BitVec.getLsbD_append, BitVec.getLsbD_append,
    if_neg (by omega), if_neg (by omega), show 16 + i - 8 - 8 = i by omega]
  simp [hi]

/-- A word is made of its three fields. -/
theorem commandWord_fields (w : Word) : commandWord (fieldOpc w) (fieldA w) (fieldB w) = w := by
  apply BitVec.eq_of_getLsbD_eq
  intro i hi
  rw [commandWord, BitVec.getLsbD_append, BitVec.getLsbD_append, fieldOpc, fieldA, fieldB]
  simp only [BitVec.getLsbD_extractLsb', Nat.zero_add]
  split
  · simp [*]
  · split
    · rw [show 8 + (i - 8) = i by omega]; simp [*]
    · rw [show 16 + (i - 8 - 8) = i by omega, decide_eq_true (by omega), Bool.true_and]

theorem commandWord_inj {opc opc' a a' : BitVec 8} {b b' : BitVec 16} :
    commandWord opc a b = commandWord opc' a' b' ↔ opc = opc' ∧ a = a' ∧ b = b' := by
  constructor
  · intro h
    refine ⟨?_, ?_, ?_⟩
    · simpa using congrArg fieldOpc h
    · simpa using congrArg fieldA h
    · simpa using congrArg fieldB h
  · rintro ⟨rfl, rfl, rfl⟩; rfl

/-- Masking a word masks its fields. -/
theorem commandWord_and (opc opc' a a' : BitVec 8) (b b' : BitVec 16) :
    commandWord opc a b &&& commandWord opc' a' b' = commandWord (opc &&& opc') (a &&& a') (b &&& b') := by
  apply BitVec.eq_of_getLsbD_eq
  intro i hi
  rw [BitVec.getLsbD_and]
  simp only [commandWord, BitVec.getLsbD_append, BitVec.getLsbD_and]
  split <;> [rfl; split <;> rfl]

/-- `(w & mask) == match` said field by field. -/
theorem and_mask_eq_iff (w : Word) (om am oc ac : BitVec 8) (bm bc : BitVec 16) :
    w &&& commandWord om am bm = commandWord oc ac bc ↔
      fieldOpc w &&& om = oc ∧ fieldA w &&& am = ac ∧ fieldB w &&& bm = bc := by
  conv_lhs => rw [← commandWord_fields w, commandWord_and, commandWord_inj]

theorem onlyIf_eq_ok {z : Bool} {i j : Instr} : onlyIf z i = .ok j ↔ z = true ∧ i = j := by
  cases z <;> simp [onlyIf]

theorem onlyIf_eq_error {z : Bool} {i : Instr} {e : DecodeError} :
    onlyIf z i = .error e ↔ z = false ∧ e = .mustBeZeroBit := by
  cases z <;> simp [onlyIf, eq_comm]

/-- An OPC value names the opcode whose code it is, and no other. -/
theorem opcodeOf_eq_some {c : BitVec 8} {o : Opcode} : opcodeOf c = some o ↔ c = o.code := by
  revert c o
  have h : ∀ c : BitVec 8, ∀ o ∈ opcodeOf c, c = o.code := by decide
  intro c o
  constructor
  · exact h c o
  · rintro rfl
    cases o <;> rfl

theorem opcodeOf_code (o : Opcode) : opcodeOf o.code = some o := opcodeOf_eq_some.2 rfl

/-- A word decodes to a command exactly when its opcode is listed and its operands decode. -/
theorem decode_eq_ok {w : Word} {i : Instr} :
    decode w = .ok i ↔ ∃ o : Opcode, fieldOpc w = o.code ∧ decodeOperands (fieldA w) (fieldB w) o = .ok i := by
  unfold decode
  cases h : opcodeOf (fieldOpc w) with
  | none =>
    simp only [reduceCtorEq, false_iff, not_exists, not_and]
    intro o ho
    rw [opcodeOf_eq_some.2 ho] at h
    cases h
  | some o =>
    constructor
    · exact fun hi => ⟨o, opcodeOf_eq_some.1 h, hi⟩
    · rintro ⟨o', ho', hi⟩
      rw [opcodeOf_eq_some.2 ho', Option.some.injEq] at h
      exact h ▸ hi

/-- Decoding a word made of a listed opcode and operands decodes the operands. -/
theorem decode_commandWord (o : Opcode) (a : BitVec 8) (b : BitVec 16) :
    decode (commandWord o.code a b) = decodeOperands a b o := by
  simp only [decode, fieldOpc_commandWord, opcodeOf_code, fieldA_commandWord, fieldB_commandWord]

/-- The opcode of a command. -/
def Instr.opcode : Instr → Opcode
  | .nop => .nop
  | .crcInit => .crcInit
  | .crcByte _ => .crcByte
  | .crcPoly _ => .crcPoly
  | .crcBuf _ _ => .crcBuf
  | .crcVerify _ => .crcVerify
  | .rxClear => .rxClear
  | .frameParse => .frameParse
  | .frameReq _ _ => .frameReq
  | .extract _ => .extract
  | .decFlags _ => .decFlags
  | .decAlarm _ _ => .decAlarm

/-- What decodes from an opcode's operands has that opcode. -/
theorem opcode_of_decodeOperands {a : BitVec 8} {b : BitVec 16} {o : Opcode} {i : Instr}
    (h : decodeOperands a b o = .ok i) : i.opcode = o := by
  cases o
  case frameReq => cases h; rfl
  all_goals
    obtain ⟨-, rfl⟩ := onlyIf_eq_ok.1 h
    rfl

end Sys2Proof
end

