-- ==== Sys2Proof/Laws/Ops.lean ====
section
/-!
SUPPORT. What each shared operation can do, said once: completing, raising, the register writes, the window words and
the payload reads.
-/

namespace Sys2Proof.Machine

/-- Completing answers one state: LAST_ERR is OK, everything else as before. -/
theorem complete_eq (s : State) : complete s = .next { s with lastErr := none } := rfl

/-- Raising answers one state: LAST_ERR and ERR_SEEN written, everything else as before. -/
theorem raise_eq (e : CmdError) (s : State) : raise e s = .next { s with lastErr := some e, errSeen := true } := rfl

@[simp] theorem complete_eq_next {s t : State} : complete s = .next t ↔ s.withOk = t := by
  simp [complete]

@[simp] theorem raise_eq_next {e : CmdError} {s t : State} : raise e s = .next t ↔ s.withError e = t := by
  simp [raise]

/-- The accumulator replaced, field by field. -/
theorem withAcc_eq (s : State) (p : Byte × Byte) : s.withAcc p = { s with crcHi := p.1, crcLo := p.2 } := rfl

/-- The kind of a descriptor is the one whose code stands in its KIND field. -/
theorem descKind_eq_some {d : Word} {k : FieldKind} :
    descKind d = some k ↔ (d.extractLsb' 16 4).toNat = k.code := by
  generalize hn : (d.extractLsb' 16 4).toNat = n
  unfold descKind
  rw [hn]
  match n with
  | 0 | 1 | 2 | 3 | 4 => cases k <;> decide
  | n + 5 => cases k <;> simp [FieldKind.code]

/-- A valid descriptor's kind is the one its KIND code names. -/
theorem selectDescriptor_of_valid (s : State) (i : Fin 64) (h : (s.desc[i.val]).getLsbD 31 = true) :
    selectDescriptor s i.val = (descKind s.desc[i.val]).map fun k => (s.desc[i.val], k) := by
  simp [selectDescriptor, descValid, h]

theorem selectDescriptor_of_invalid (s : State) (i : Fin 64) (h : (s.desc[i.val]).getLsbD 31 = false) :
    selectDescriptor s i.val = none := by
  have hi : s.desc[i.val]? = some s.desc[i.val] := Vector.getElem?_eq_getElem i.isLt
  simp only [selectDescriptor, hi, descValid, h, Bool.false_eq_true, if_false]

theorem selectDescriptor_of_ge (s : State) {idx : Nat} (h : 64 ≤ idx) : selectDescriptor s idx = none := by
  have : s.desc[idx]? = none := by
    rw [Vector.getElem?_eq_none_iff]
    exact h
  simp [selectDescriptor, this]

/-- The trimmed length: at most the width, NUL from there on, no NUL just before. -/
theorem trimmedLength_spec (rx : Memory) (o n : Nat) :
    trimmedLength rx o n ≤ n ∧
    (∀ j, trimmedLength rx o n ≤ j → j < n → payloadByte rx (o + j) = 0x00#8) ∧
    (0 < trimmedLength rx o n → payloadByte rx (o + (trimmedLength rx o n - 1)) ≠ 0x00#8) := by
  induction n with
  | zero => simp [trimmedLength]
  | succ n ih =>
    simp only [trimmedLength]
    split
    · obtain ⟨h1, h2, h3⟩ := ih
      refine ⟨by omega, fun j hj hj' => ?_, h3⟩
      rcases Nat.lt_succ_iff_lt_or_eq.1 hj' with h | rfl
      · exact h2 j hj h
      · assumption
    · refine ⟨le_rfl, fun j hj hj' => absurd hj' (by omega), fun _ => ?_⟩
      simpa using ‹¬payloadByte rx (o + n) = 0x00#8›

/-- A byte of a window word. -/
theorem windowWord_byte (m : Memory) (len k : Nat) {j : Nat} (hj : j < 4) :
    (windowWord m len k).extractLsb' (8 * j) 8 = windowByte m len (4 * k + j) := by
  apply BitVec.eq_of_getLsbD_eq
  intro i hi
  rw [BitVec.getLsbD_extractLsb', windowWord]
  simp only [BitVec.getLsbD_append]
  rcases (by omega : j = 0 ∨ j = 1 ∨ j = 2 ∨ j = 3) with rfl | rfl | rfl | rfl
  · simp [hi]
  · rw [if_neg (by omega), if_pos (by omega)]
    simp [hi]
  · rw [if_neg (by omega), if_neg (by omega), if_pos (by omega), show 8 * 2 + i - 8 - 8 = i by omega]
    simp [hi]
  · rw [if_neg (by omega), if_neg (by omega), if_neg (by omega), show 8 * 3 + i - 8 - 8 - 8 = i by omega]
    simp [hi]

/-! ### FRAME.PARSE, step by step -/

theorem parseHeader_of_rejected {s : State} (h : s.rx.read 1 = 0x83#8 ∨ s.rx.read 1 = 0x86#8) :
    parseHeader s = raise .deviceRejected
      ((s.withFrameInfo (s.rx.read 2 ++ s.rx.read 1 ++ s.rx.read 0)).withDevErr (s.rx.read 2)) := if_pos h

theorem parseHeader_of_wrong_length {s : State} (h : ¬(s.rx.read 1 = 0x83#8 ∨ s.rx.read 1 = 0x86#8))
    (hl : s.rxLen.val ≠ (s.rx.read 2).toNat + 5) :
    parseHeader s = raise .lengthMismatch (s.withFrameInfo (s.rx.read 2 ++ s.rx.read 1 ++ s.rx.read 0)) :=
  (if_neg h).trans (if_pos hl)

theorem parseHeader_of_length {s : State} (h : ¬(s.rx.read 1 = 0x83#8 ∨ s.rx.read 1 = 0x86#8))
    (hl : s.rxLen.val = (s.rx.read 2).toNat + 5) :
    parseHeader s = parseChecksum (s.withFrameInfo (s.rx.read 2 ++ s.rx.read 1 ++ s.rx.read 0)) :=
  (if_neg h).trans (if_neg (not_not.2 hl))

theorem parseChecksum_of_mismatch {s : State} (h : expectedCrc s s.rxLen.val ≠ receivedCrc s s.rxLen.val) :
    parseChecksum s = raise .checksumMismatch
      (s.withFrameCrc ((receivedCrc s s.rxLen.val).1 ++ (receivedCrc s s.rxLen.val).2 ++
        (expectedCrc s s.rxLen.val).1 ++ (expectedCrc s s.rxLen.val).2)) := if_pos h

theorem parseChecksum_of_match {s : State} (h : expectedCrc s s.rxLen.val = receivedCrc s s.rxLen.val) :
    parseChecksum s = complete
      ((s.withFrameCrc ((receivedCrc s s.rxLen.val).1 ++ (receivedCrc s s.rxLen.val).2 ++
        (expectedCrc s s.rxLen.val).1 ++ (expectedCrc s s.rxLen.val).2)).withPayloadValid true) :=
  if_neg (not_not.2 h)

theorem execFrameParse_of_short {s : State} (h : s.rxLen.val < 5) :
    execFrameParse s = raise .tooShort (s.withPayloadValid false) := if_pos h

theorem execFrameParse_of_long {s : State} (h : 5 ≤ s.rxLen.val) :
    execFrameParse s = parseHeader (s.withPayloadValid false) := if_neg (Nat.not_lt.2 h)

/-! ### The bus -/

/-- A step on an aligned 32-bit write performs the write. -/
theorem step_write {s : State} {rest : List BusEvent} {off : BitVec 12} {v : Word}
    (hp : s.pending = .write 4 off v :: rest) (ha : off.toNat % 4 = 0) :
    step s = hostWrite (registerOf off) v (s.withPending rest) := by
  simp [step, hp, performEvent, inInterface, ha]

/-- A step on an aligned 32-bit read performs the read. -/
theorem step_read {s : State} {rest : List BusEvent} {off : BitVec 12}
    (hp : s.pending = .read 4 off :: rest) (ha : off.toNat % 4 = 0) :
    step s = .next (hostRead (registerOf off) (s.withPending rest)) := by
  simp [step, hp, performEvent, inInterface, ha]

/-- A first step that answers a next state, then the rest of the steps. -/
theorem runSteps_of_step {s t : State} (h : step s = .next t) (k : Nat) : runSteps (k + 1) s = runSteps k t := by
  simp only [runSteps, h]

/-! ### The result of EXTRACT

It writes RAW and VALUE, or STR_LEN, and no other field. -/

@[simp] theorem extractField_crcHi (d : Word) (k : FieldKind) (s : State) : (extractField d k s).crcHi = s.crcHi := by
  cases k <;> simp [extractField]

@[simp] theorem extractField_crcLo (d : Word) (k : FieldKind) (s : State) : (extractField d k s).crcLo = s.crcLo := by
  cases k <;> simp [extractField]

@[simp] theorem extractField_tempUnit (d : Word) (k : FieldKind) (s : State) : (extractField d k s).tempUnit = s.tempUnit := by
  cases k <;> simp [extractField]

@[simp] theorem extractField_round (d : Word) (k : FieldKind) (s : State) : (extractField d k s).round = s.round := by
  cases k <;> simp [extractField]

@[simp] theorem extractField_crcSwap (d : Word) (k : FieldKind) (s : State) : (extractField d k s).crcSwap = s.crcSwap := by
  cases k <;> simp [extractField]

@[simp] theorem extractField_lastErr (d : Word) (k : FieldKind) (s : State) : (extractField d k s).lastErr = s.lastErr := by
  cases k <;> simp [extractField]

@[simp] theorem extractField_payloadValid (d : Word) (k : FieldKind) (s : State) : (extractField d k s).payloadValid = s.payloadValid := by
  cases k <;> simp [extractField]

@[simp] theorem extractField_crcMatch (d : Word) (k : FieldKind) (s : State) : (extractField d k s).crcMatch = s.crcMatch := by
  cases k <;> simp [extractField]

@[simp] theorem extractField_errSeen (d : Word) (k : FieldKind) (s : State) : (extractField d k s).errSeen = s.errSeen := by
  cases k <;> simp [extractField]

@[simp] theorem extractField_rxOvf (d : Word) (k : FieldKind) (s : State) : (extractField d k s).rxOvf = s.rxOvf := by
  cases k <;> simp [extractField]

@[simp] theorem extractField_arg0 (d : Word) (k : FieldKind) (s : State) : (extractField d k s).arg0 = s.arg0 := by
  cases k <;> simp [extractField]

@[simp] theorem extractField_devErr (d : Word) (k : FieldKind) (s : State) : (extractField d k s).devErr = s.devErr := by
  cases k <;> simp [extractField]

@[simp] theorem extractField_frameInfo (d : Word) (k : FieldKind) (s : State) : (extractField d k s).frameInfo = s.frameInfo := by
  cases k <;> simp [extractField]

@[simp] theorem extractField_frameCrc (d : Word) (k : FieldKind) (s : State) : (extractField d k s).frameCrc = s.frameCrc := by
  cases k <;> simp [extractField]

@[simp] theorem extractField_rx (d : Word) (k : FieldKind) (s : State) : (extractField d k s).rx = s.rx := by
  cases k <;> simp [extractField]

@[simp] theorem extractField_rxLen (d : Word) (k : FieldKind) (s : State) : (extractField d k s).rxLen = s.rxLen := by
  cases k <;> simp [extractField]

@[simp] theorem extractField_flags (d : Word) (k : FieldKind) (s : State) : (extractField d k s).flags = s.flags := by
  cases k <;> simp [extractField]

@[simp] theorem extractField_level (d : Word) (k : FieldKind) (s : State) : (extractField d k s).level = s.level := by
  cases k <;> simp [extractField]

@[simp] theorem extractField_tx (d : Word) (k : FieldKind) (s : State) : (extractField d k s).tx = s.tx := by
  cases k <;> simp [extractField]

@[simp] theorem extractField_txLen (d : Word) (k : FieldKind) (s : State) : (extractField d k s).txLen = s.txLen := by
  cases k <;> simp [extractField]

@[simp] theorem extractField_desc (d : Word) (k : FieldKind) (s : State) : (extractField d k s).desc = s.desc := by
  cases k <;> simp [extractField]

@[simp] theorem extractField_pending (d : Word) (k : FieldKind) (s : State) : (extractField d k s).pending = s.pending := by
  cases k <;> simp [extractField]

@[simp] theorem extractField_reads (d : Word) (k : FieldKind) (s : State) : (extractField d k s).reads = s.reads := by
  cases k <;> simp [extractField]

@[simp] theorem extractField_choices (d : Word) (k : FieldKind) (s : State) : (extractField d k s).choices = s.choices := by
  cases k <;> simp [extractField]

end Sys2Proof.Machine
end

