-- ==== Sys2Proof/Laws/PerInstr.lean ====
section
/-!
SUPPORT. The family RowSelected: the word of every command, well-formed or not, is selected by the command's own row
of the opcode map (spec/30_encoding.md R82).
-/

namespace Sys2Proof.Laws.RowSelected

/-- The command's word selects the command's row. -/
def Statement (i : Instr) : Prop := i.row.selects (encode i) = true

/-- A word selects a row whose mask and match are given field by field. -/
theorem selects_of_fields {r : OpcodeRow} {opc a om am ac : BitVec 8} {b bm : BitVec 16}
    (hm : r.mask = commandWord om am bm) (hp : r.pattern = commandWord opc ac 0#16)
    (ho : opc &&& om = opc) (ha : a &&& am = ac) (hb : b &&& bm = 0#16) :
    r.selects (commandWord opc a b) = true := by
  simp only [OpcodeRow.selects, hm, hp, commandWord_and, ho, ha, hb, beq_self_eq_true]

theorem nop : Statement .nop := by unfold Statement; decide

theorem crcInit : Statement .crcInit := by unfold Statement; decide

theorem crcByte (data : Byte) : Statement (.crcByte data) :=
  selects_of_fields (om := 0xFF#8) (am := 0#8) (ac := 0#8) (bm := 0xFFFF#16) rfl rfl rfl (by simp) rfl

theorem crcPoly (data : Byte) : Statement (.crcPoly data) :=
  selects_of_fields (om := 0xFF#8) (am := 0#8) (ac := 0#8) (bm := 0xFFFF#16) rfl rfl rfl (by simp) rfl

theorem crcBuf (buf : Buffer) (n : Nat) : Statement (.crcBuf buf n) :=
  selects_of_fields (om := 0xFF#8) (am := 0xFE#8) (ac := 0#8) (bm := 0#16) rfl rfl rfl (by cases buf <;> decide)
    (by simp)

theorem crcVerify (expect : Half) : Statement (.crcVerify expect) :=
  selects_of_fields (om := 0xFF#8) (am := 0xFF#8) (ac := 0#8) (bm := 0#16) rfl rfl rfl rfl (by simp)

theorem rxClear : Statement .rxClear := by unfold Statement; decide

theorem frameParse : Statement .frameParse := by unfold Statement; decide

theorem frameReq (addr : Byte) (start : Half) : Statement (.frameReq addr start) :=
  selects_of_fields (om := 0xFF#8) (am := 0#8) (ac := 0#8) (bm := 0#16) rfl rfl rfl (by simp) (by simp)

theorem extract (idx : Nat) : Statement (.extract idx) :=
  selects_of_fields (om := 0xFF#8) (am := 0#8) (ac := 0#8) (bm := 0xFFFF#16) rfl rfl rfl (by simp) rfl

theorem decFlags (src : WordSource) : Statement (.decFlags src) := by
  cases src <;> (unfold Statement; decide)

theorem decAlarm (src : WordSource) (idx : Nat) : Statement (.decAlarm src idx) := by
  have h : ∀ x : BitVec 4, (0#3 ++ src.bit ++ x) &&& 0xE0#8 = 0#8 := by cases src <;> decide
  exact selects_of_fields (om := 0xFF#8) (am := 0xE0#8) (ac := 0#8) (bm := 0xFFFF#16) rfl rfl rfl (h _) rfl

end Sys2Proof.Laws.RowSelected
end

