-- ==== Sys2Proof/Tests/Slice0.lean ====
section
/-!
SUPPORT. The model's own tests, and a witness for the hypotheses of every statement that has some. Every expected
value is from the spec: the encoding examples of R89, the vectors of spec/95_test_vectors.md (its rows are named),
or the rule cited.
-/

namespace Sys2Proof.Tests

open Sys2Proof.Machine

set_option Elab.async false

/-! ### Helpers -/

/-- What a field of the next state is, when there is a next state. -/
def observe {α : Type} (r : Result) (f : State → α) : Option α :=
  match r with
  | .next t => some (f t)
  | .fault _ => none
  | .refused _ => none

/-- Reset with these bytes in RX. -/
def holding (bs : List Byte) : State :=
  { State.reset with rx := Memory.writeList [] 0 bs, rxLen := Fin.ofNat 261 bs.length }

/-- Reset with these events to come. -/
def facing (l : List BusEvent) : State := State.reset.withPending l

/-- A frame in RX, accepted, and one descriptor at index 0 and at index 63. -/
def accepted (payload : List Byte) (d : Word) : State :=
  { holding (responseFrame false 0xF7#8 0x03#8 payload) with
    payloadValid := true
    frameInfo := BitVec.ofNat 8 payload.length ++ 0x03#8 ++ 0xF7#8
    frameCrc :=
      let c := crcCompute ([0xF7#8, 0x03#8, BitVec.ofNat 8 payload.length] ++ payload)
      c.1 ++ c.2 ++ c.1 ++ c.2
    desc := (State.reset.desc.set 0 d).set 63 d }

/-- The payload of vector S2. -/
def s2Payload : List Byte :=
  [0x0C#8, 0xE4#8, 0xFF#8, 0x38#8, 0x00#8, 0x00#8, 0x30#8, 0x39#8, 0x13#8, 0x88#8, 0x04#8, 0xD2#8]

/-- The frame of vector S2. -/
def s2 : List Byte := [0xF7#8, 0x03#8, 0x0C#8] ++ s2Payload ++ [0x2E#8, 0x21#8]

/-- The longest frame of the vectors: payload 00 to FE. -/
def longest : List Byte :=
  [0x01#8, 0x03#8, 0xFF#8] ++ (List.range 255).map (BitVec.ofNat 8) ++ [0x4C#8, 0x3C#8]

/-- A full RX buffer (program P7). -/
def full : State := holding (List.replicate 260 0x55#8)

/-- Reset with the request of vector S1 in TX. -/
def requested : State :=
  { State.reset with
    arg0 := 6#32
    tx := Memory.writeList [] 0 [0xF7#8, 0x03#8, 0x13#8, 0xB2#8, 0x00#8, 0x06#8, 0x75#8, 0xFD#8]
    txLen := 8 }

/-! ### WellFormed and decoding -/

theorem test_wellFormed_refuses_wide_count : (Instr.crcBuf .rx 65536).wellFormed = false := by decide

theorem test_wellFormed_refuses_wide_descriptor : (Instr.extract 256).wellFormed = false := by decide

theorem test_wellFormed_refuses_wide_alarm_index : (Instr.decAlarm .arg0 16).wellFormed = false := by decide

theorem test_wellFormed_accepts_bounds :
    (Instr.crcBuf .rx 65535).wellFormed = true ∧ (Instr.extract 255).wellFormed = true ∧
      (Instr.decAlarm .arg0 15).wellFormed = true := by decide

/-- Words from the table of R89. -/
theorem test_decode_words_R89 :
    decode 0x00000000#32 = .ok .nop ∧ decode 0x00000001#32 = .ok .crcInit ∧
      decode 0x0000F702#32 = .ok (.crcByte 0xF7#8) ∧ decode 0x0000F703#32 = .ok (.crcPoly 0xF7#8) ∧
      decode 0x00060104#32 = .ok (.crcBuf .tx 6) ∧ decode 0x000D0004#32 = .ok (.crcBuf .rx 13) ∧
      decode 0x75FD0005#32 = .ok (.crcVerify 0x75FD#16) ∧ decode 0x00000010#32 = .ok .rxClear ∧
      decode 0x00000011#32 = .ok .frameParse ∧ decode 0x13B2F712#32 = .ok (.frameReq 0xF7#8 5042#16) ∧
      decode 0x00000320#32 = .ok (.extract 3) ∧ decode 0x00000130#32 = .ok (.decFlags .raw) ∧
      decode 0x00000030#32 = .ok (.decFlags .arg0) ∧ decode 0x00001531#32 = .ok (.decAlarm .raw 5) ∧
      decode 0x00000531#32 = .ok (.decAlarm .arg0 5) := by decide

/-- CRC.BUF written out bit by bit from R80 and R81: N = 0x0102, A = 0000000 BUF, OPC = 00000100. -/
theorem test_decode_crcBuf_bits :
    decode 0b00000001000000100000000100000100#32 = .ok (.crcBuf .tx 0x0102) := by decide

/-- DEC.ALARM written out bit by bit from R80 and R81: B = 0, A = 000 SRC IDX, OPC = 00110001. -/
theorem test_decode_decAlarm_bits :
    decode 0b00000000000000000001011000110001#32 = .ok (.decAlarm .raw 6) := by decide

/-- FRAME.REQ written out bit by bit from R80 and R81: START, ADDR, OPC = 00010010. -/
theorem test_decode_frameReq_bits :
    decode 0b10000000000000011111111000010010#32 = .ok (.frameReq 0xFE#8 0x8001#16) := by decide

/-- Illegal words of the vectors, sections 2.1, 2.3, 2.4 and 2.5. -/
theorem test_decode_rejects :
    decode 0x00000006#32 = .error .reservedOpcode ∧ decode 0xFFFFFFFF#32 = .error .reservedOpcode ∧
      decode 0x00000100#32 = .error .mustBeZeroBit ∧ decode 0x00010001#32 = .error .mustBeZeroBit ∧
      decode 0x00000204#32 = .error .mustBeZeroBit ∧ decode 0x00000211#32 = .error .mustBeZeroBit ∧
      decode 0x00010020#32 = .error .mustBeZeroBit ∧ decode 0x00000230#32 = .error .mustBeZeroBit ∧
      decode 0x00002031#32 = .error .mustBeZeroBit := by decide

theorem test_decodeTableWord : decodeTableWord 32 0x13B2F712 = some (.frameReq 0xF7#8 5042#16) ∧
    decodeTableWord 32 0x00000006 = none ∧ decodeTableWord 8 0xFF01 = some .crcInit := by decide

/-- The word placed by withFetchWord is what the very next step runs. -/
theorem test_withFetchWord_runs :
    observe (step (State.reset.withFetchWord 32 0x00000001)) (fun t => (t.crcHi, t.pending)) =
      some (0xFF#8, []) := by decide

theorem test_opcodeMap_rows_do_not_overlap :
    opcodeMap.Pairwise fun r q => r.pattern &&& (r.mask &&& q.mask) ≠ q.pattern &&& (r.mask &&& q.mask) := by decide

/-! ### Control and CRC (vectors 2.1) -/

theorem test_nop_clears_lastErr_only :
    observe (command 0#32 { State.reset with lastErr := some .checksumMismatch, errSeen := true })
      (fun t => (t.lastErr, t.errSeen)) = some (none, true) := by decide

theorem test_crcInit_seeds :
    observe (exec .crcInit { State.reset with crcHi := 0x12#8, crcLo := 0x34#8 }) (fun t => readReg t .crcVal) =
      some 0x0000FFFF#32 := by decide

theorem test_crcByte_zero :
    observe (exec (.crcByte 0x00#8) State.reset) (fun t => (readReg t .crcVal, readReg t .crcStd)) =
      some (0x0000BF40#32, 0x000040BF#32) := by decide +kernel

theorem test_crcByte_ff :
    observe (exec (.crcByte 0xFF#8) State.reset) (fun t => readReg t .crcVal) = some 0x0000FF00#32 := by
  decide +kernel

theorem test_crcPoly_one :
    observe (exec (.crcPoly 0x01#8) State.reset) (fun t => (readReg t .crcVal, readReg t .crcStd)) =
      some (0x00007E80#32, 0x0000807E#32) := by decide +kernel

theorem test_crcPoly_after_crcByte :
    observe (exec (.crcPoly 0x01#8) { State.reset with crcHi := 0xBF#8, crcLo := 0x40#8 })
      (fun t => readReg t .crcVal) = some 0x0000C070#32 := by decide +kernel

theorem test_crcBuf_request :
    observe (exec (.crcBuf .tx 6) requested) (fun t => (readReg t .crcVal, t.lastErr)) =
      some (0x000075FD#32, none) := by decide +kernel

theorem test_crcBuf_beyond_length :
    observe (exec (.crcBuf .rx 1) State.reset) (fun t => (t.lastErr, t.errSeen, readReg t .crcVal)) =
      some (some .bufferRange, true, 0x0000FFFF#32) := by decide

theorem test_crcVerify_match :
    observe (exec (.crcVerify 0x75FD#16) { State.reset with crcHi := 0x75#8, crcLo := 0xFD#8 })
      (fun t => readReg t .status) = some 0x00000020#32 := by decide

theorem test_crcVerify_swapped :
    observe (exec (.crcVerify 0x4B37#16) { State.reset with crcHi := 0x37#8, crcLo := 0x4B#8, crcMatch := true })
      (fun t => readReg t .status) = some 0x00000103#32 := by decide

/-- "123456789" gives 0x374B, catalogue value 0x4B37 in the other order. -/
theorem test_crc_check_string :
    crcCompute ((List.range 9).map fun k => BitVec.ofNat 8 (0x31 + k)) = (0x37#8, 0x4B#8) := by decide +kernel

/-! ### Frame codec (vectors 2.2) -/

theorem test_rxClear :
    observe (exec .rxClear (accepted s2Payload 0#32)) (fun t => (t.rxLen.val, t.payloadValid, readReg t (.rxWin 0))) =
      some (0, false, 0#32) := by decide +kernel

theorem test_frameParse_accepts_s2 :
    observe (exec .frameParse (holding s2)) (fun t => (readReg t .status, readReg t .frameInfo, readReg t .frameCrc)) =
      some (0x00000010#32, 0x000C03F7#32, 0x2E212E21#32) := by decide +kernel

theorem test_frameParse_reports_device :
    observe (exec .frameParse (holding [0xF7#8, 0x83#8, 0x02#8, 0x20#8, 0xC3#8]))
      (fun t => (readReg t .status, readReg t .devErr, readReg t .frameInfo, addressOrLengthWrong t)) =
      some (0x00000104#32, 0x00000002#32, 0x000283F7#32, true) := by decide +kernel

theorem test_frameReq_builds_s1 :
    observe (exec (.frameReq 0xF7#8 5042#16) { State.reset with arg0 := 6#32 })
      (fun t => (readReg t (.txWin 0), readReg t (.txWin 1), readReg t .txLen)) =
      some (0xB21303F7#32, 0xFD750600#32, 8#32) := by decide +kernel

theorem test_frameReq_swapped :
    observe (exec (.frameReq 0xF7#8 5042#16) { State.reset with arg0 := 6#32, crcSwap := true })
      (fun t => readReg t (.txWin 1)) = some 0x75FD0600#32 := by decide +kernel

theorem test_rxPush_appends :
    observe (step { holding [0xF7#8] with pending := [pushWrite 0x03#8] }) (fun t => (readReg t (.rxWin 0), t.rxLen.val)) =
      some (0x000003F7#32, 2) := by decide +kernel

theorem test_rxPush_overflows :
    observe (step { full with pending := [pushWrite 0xAA#8] })
      (fun t => (readReg t .status, readReg t .rxLen, readReg t (.rxWin 64))) =
      some (0x00000200#32, 0x00000104#32, 0x55555555#32) := by decide +kernel

/-! ### Field extractor (vectors 2.3) -/

theorem test_extract_s16 :
    observe (exec (.extract 0) (accepted [0xFF#8, 0x38#8] 0x80210000#32)) (fun t => (readReg t .raw, t.value.toInt)) =
      some (0xFFFFFF38#32, -200) := by decide +kernel

theorem test_extract_fahrenheit_tie :
    observe (exec (.extract 0) { accepted [0x00#8, 0x19#8] 0x80700000#32 with tempUnit := .fahrenheit })
      (fun t => t.value.toInt) = some 3204 ∧
    observe (exec (.extract 0)
      { accepted [0x00#8, 0x19#8] 0x80700000#32 with tempUnit := .fahrenheit, round := .awayFromZero })
      (fun t => t.value.toInt) = some 3205 := by decide +kernel

theorem test_extract_u32_top :
    observe (exec (.extract 0) (accepted [0xFF#8, 0xFF#8, 0xFF#8, 0xFF#8] 0x80020000#32))
      (fun t => (readReg t .raw, readReg t .valueHi, readReg t .valueLo)) =
      some (0xFFFFFFFF#32, 0x00000063#32, 0xFFFFFF9C#32) := by decide +kernel

theorem test_extract_string_keeps_interior_nul :
    observe (exec (.extract 0) (accepted [0x41#8, 0x00#8, 0x42#8, 0x00#8] 0x80040400#32))
      (fun t => readReg t .strLen) = some 3#32 := by decide +kernel

/-! ### Bitfield decoder (vectors 2.4) and its names -/

theorem test_decFlags_raw :
    observe (exec (.decFlags .raw) { State.reset with raw := 0x000004D2#32 }) (fun t => readReg t .flags) =
      some 0x00004B20#32 := by decide +kernel

theorem test_decFlags_arg0 :
    observe (exec (.decFlags .arg0) { State.reset with arg0 := 0x00004000#32 }) (fun t => readReg t .flags) =
      some 0x00000002#32 := by decide +kernel

theorem test_decAlarm_above :
    observe (exec (.decAlarm .raw 5) { State.reset with raw := 0x00000800#32 })
      (fun t => (readReg t .level, alarmLevel t.level)) = some (2#32, .above) := by decide +kernel

theorem test_decAlarm_top_field :
    observe (exec (.decAlarm .arg0 15) { State.reset with arg0 := 0xC0000000#32 })
      (fun t => (readReg t .level, alarmLevel t.level)) = some (3#32, .other) := by decide +kernel

/-! ### Registers (vectors 2.5) -/

theorem test_ctrl_keeps_unit_on_3 :
    observe (step { facing [.write 4 0x004#12 3#32] with tempUnit := .fahrenheit, round := .awayFromZero })
      (fun t => readReg t .ctrl) = some 1#32 := by decide +kernel

theorem test_ctrl_reserved_bits_read_0 :
    observe (step (facing [.write 4 0x004#12 0xFFFFFFF0#32])) (fun t => readReg t .ctrl) = some 0#32 := by
  decide +kernel

theorem test_desc_reserved_bits_read_0 :
    observe (step (facing [.write 4 0x100#12 0xFFFFFFFF#32])) (fun t => readReg t (.desc 0)) =
      some 0x807FFFFF#32 := by decide +kernel

theorem test_read_id : observe (step (facing [.read 4 0x000#12])) (fun t => t.reads) = some [0x53420007#32] := by
  decide +kernel

theorem test_lddesc_word : DescFields.word ⟨.u16, 8, 1, 1, 0⟩ = 0x80500008#32 := by decide

/-! ### Witnesses: a concrete case meets every hypothesis of each statement -/

theorem witness_DecodeOfEncode : (Instr.crcBuf .tx 65535).wellFormed = true ∧ (Instr.extract 255).wellFormed = true ∧
    (Instr.decAlarm .raw 15).wellFormed = true := by decide

theorem witness_EncodeOfDecode : decode 0xFFFF0104#32 = .ok (.crcBuf .tx 65535) := by decide

theorem witness_WordSelectsRowByMaskAndMatch :
    Instr.nop.row ∈ opcodeMap ∧ ∀ r ∈ opcodeMap, fieldOpc 0x00000006#32 ≠ r.pattern.extractLsb' 0 8 := by decide

theorem witness_IllegalWordsRaiseIllegalCommand :
    (0x06 ≤ (0x06#32).toNat % 256 ∧ (0x06#32).toNat % 256 ≤ 0x0F) ∧
    (0x06 ≤ (0x0F#32).toNat % 256 ∧ (0x0F#32).toNat % 256 ≤ 0x0F) ∧
    (0x13 ≤ (0x13#32).toNat % 256 ∧ (0x13#32).toNat % 256 ≤ 0x1F) ∧
    (0x13 ≤ (0x1F#32).toNat % 256 ∧ (0x1F#32).toNat % 256 ≤ 0x1F) ∧
    (0x21 ≤ (0x21#32).toNat % 256 ∧ (0x21#32).toNat % 256 ≤ 0x2F) ∧
    (0x21 ≤ (0x2F#32).toNat % 256 ∧ (0x2F#32).toNat % 256 ≤ 0x2F) ∧
    0x32 ≤ (0x32#32).toNat % 256 ∧ 0x32 ≤ (0xFF#32).toNat % 256 ∧
    (∃ r ∈ opcodeMap, (0x00010001#32).toNat % 256 = r.pattern.toNat % 256 ∧ 0x00010001#32 &&& r.mask ≠ r.pattern) ∧
    (∃ r ∈ opcodeMap, 0x00060104#32 &&& r.mask = r.pattern) := by decide

theorem witness_StepRunsDecodedCommand :
    (facing [.write 4 0x00C#12 0x00000001#32]).pending = .write 4 0x00C#12 0x00000001#32 :: [] ∧
    decode 0x00000001#32 = .ok .crcInit ∧
    (facing [.write 4 0x00C#12 0x00000006#32]).pending = .write 4 0x00C#12 0x00000006#32 :: [] ∧
    decode 0x00000006#32 = .error .reservedOpcode := by decide

/-- For each use of IllegalWhenSet, a word of the opcode with one of the bits set. -/
theorem witness_IllegalWhenSet :
    (fieldOpc 0x00000100#32 = 0x00#8 ∧ 0x00000100#32 &&& 0xFFFFFF00#32 ≠ 0#32) ∧
    (fieldOpc 0x80000001#32 = 0x01#8 ∧ 0x80000001#32 &&& 0xFFFFFF00#32 ≠ 0#32) ∧
    (fieldOpc 0x00010002#32 = 0x02#8 ∧ 0x00010002#32 &&& 0xFFFF0000#32 ≠ 0#32) ∧
    (fieldOpc 0x00010003#32 = 0x03#8 ∧ 0x00010003#32 &&& 0xFFFF0000#32 ≠ 0#32) ∧
    (fieldOpc 0x00000204#32 = 0x04#8 ∧ 0x00000204#32 &&& 0x0000FE00#32 ≠ 0#32) ∧
    (fieldOpc 0x00000105#32 = 0x05#8 ∧ 0x00000105#32 &&& 0x0000FF00#32 ≠ 0#32) ∧
    (fieldOpc 0x00000110#32 = 0x10#8 ∧ 0x00000110#32 &&& 0xFFFFFF00#32 ≠ 0#32) ∧
    (fieldOpc 0x00000211#32 = 0x11#8 ∧ 0x00000211#32 &&& 0xFFFFFF00#32 ≠ 0#32) ∧
    (fieldOpc 0x00000230#32 = 0x30#8 ∧ 0x00000230#32 &&& 0xFFFFFE00#32 ≠ 0#32) ∧
    (fieldOpc 0x00002031#32 = 0x31#8 ∧ 0x00002031#32 &&& 0xFFFFE000#32 ≠ 0#32) := by decide

/-- CrcBufFoldsPrefix and CrcBufEqualsBytesOneByOne: the whole buffer, and one byte more. -/
theorem witness_CrcBuf :
    260 ≤ full.rxLen.val ∧ full.rxLen.val < 261 ∧ 8 ≤ requested.txLen.val ∧ requested.txLen.val < 9 ∧
      0 ≤ State.reset.rxLen.val ∧ State.reset.rxLen.val < 1 := by decide +kernel

theorem witness_CrcVerifyComparesAccumulator : 0x75FD#16 ≠ State.reset.crcHi ++ State.reset.crcLo := by decide

theorem witness_OneChangedByteChangesCrc : (0xD2#8 : Byte) ≠ 0xD3#8 := by decide

theorem witness_RxClearEmptiesBuffer :
    ∃ t, exec .rxClear full = .next t ∧ readReg full (.rxWin 64) ≠ readReg t (.rxWin 64) :=
  ⟨_, rfl, by decide +kernel⟩

theorem witness_RxPushAppendsOrOverflows :
    ({ full with pending := [pushWrite 0xAA#8] } : State).pending = .write 4 0x02C#12 0xAA#32 :: [] ∧
    full.rxLen.val = 260 ∧ (holding (List.replicate 259 0x55#8)).rxLen.val < 260 ∧
    (holding (List.replicate 259 0x55#8)).rx.wf = true := by decide +kernel

/-- The hypotheses under which FRAME.PARSE accepts, of a state. -/
def acceptable (s : State) : Bool :=
  decide (5 ≤ s.rxLen.val) && decide (s.rx.read 1 ≠ 0x83#8) && decide (s.rx.read 1 ≠ 0x86#8) &&
  decide (s.rxLen.val = (s.rx.read 2).toNat + 5) &&
  let p := crcCompute ((List.range (s.rxLen.val - 2)).map s.rx.read)
  decide ((if s.crcSwap then (p.2, p.1) else p) = (s.rx.read (s.rxLen.val - 2), s.rx.read (s.rxLen.val - 1)))

/-- The frame of S2, the shortest frame, the longest frame, and a frame in the other wire order. -/
theorem witness_FrameParseAcceptsValidFrame :
    acceptable (holding s2) = true ∧ acceptable (holding [0xF7#8, 0x06#8, 0x00#8, 0xC3#8, 0x92#8]) = true ∧
      acceptable (holding longest) = true ∧
      acceptable { holding ([0xF7#8, 0x03#8, 0x0C#8] ++ s2Payload ++ [0x21#8, 0x2E#8]) with crcSwap := true } = true := by
  decide +kernel

theorem witness_FrameParse_tooShort : (holding [0xF7#8, 0x83#8, 0x02#8, 0x20#8]).rxLen.val < 5 := by decide +kernel

theorem witness_FrameParse_rejected :
    5 ≤ (holding [0xF7#8, 0x83#8, 0x02#8, 0x20#8, 0xC3#8]).rxLen.val ∧
    (holding [0xF7#8, 0x83#8, 0x02#8, 0x20#8, 0xC3#8]).rx.read 1 = 0x83#8 ∧
    5 ≤ (holding [0xF7#8, 0x86#8, 0x04#8, 0xA3#8, 0x91#8]).rxLen.val ∧
    (holding [0xF7#8, 0x86#8, 0x04#8, 0xA3#8, 0x91#8]).rx.read 1 = 0x86#8 := by decide +kernel

theorem witness_FrameParse_length :
    5 ≤ (holding (s2 ++ [0x00#8])).rxLen.val ∧ (holding (s2 ++ [0x00#8])).rx.read 1 ≠ 0x83#8 ∧
    (holding (s2 ++ [0x00#8])).rx.read 1 ≠ 0x86#8 ∧
    (holding (s2 ++ [0x00#8])).rxLen.val ≠ ((holding (s2 ++ [0x00#8])).rx.read 2).toNat + 5 := by decide +kernel

/-- The last clause of FRAME.PARSE, with the received CRC right and, in the other wire order, wrong. -/
theorem witness_FrameParse_checksum :
    acceptable (holding s2) = true ∧ acceptable { holding s2 with crcSwap := true } = false ∧
    5 ≤ (holding s2).rxLen.val ∧ (holding s2).rx.read 1 ≠ 0x83#8 ∧ (holding s2).rx.read 1 ≠ 0x86#8 ∧
    (holding s2).rxLen.val = ((holding s2).rx.read 2).toNat + 5 := by decide +kernel

theorem witness_FrameParseIsIdempotent : ∃ t, exec .frameParse (holding [0xF7#8]) = .next t := ⟨_, rfl⟩

/-- The first and the last payload byte of S2. -/
theorem witness_CorruptedPayloadByteIsRejected :
    (holding s2).rx.wf = true ∧
    observe (exec .frameParse (holding s2)) (fun t => (t.payloadValid, decide (0 < t.plen), decide (11 < t.plen))) =
      some (true, true, true) ∧
    0x0D#8 ≠ (holding s2).rx.read (3 + 0) ∧ 0xD3#8 ≠ (holding s2).rx.read (3 + 11) := by decide +kernel

theorem witness_EveryNonRejectingResponseIsAccepted :
    State.reset.rx.wf = true ∧ (List.replicate 255 0xAA#8).length ≤ 255 ∧ ([] : List Byte).length ≤ 255 ∧
      (0x03#8 : Byte) ≠ 0x83#8 ∧ (0x03#8 : Byte) ≠ 0x86#8 := by
  refine ⟨by decide, List.length_replicate ▸ le_refl 255, Nat.zero_le _, by decide, by decide⟩

/-- FrameReqBuildsRequest, whose premise about the CRC names it, and RequestChecksItselfToZero. -/
theorem witness_FrameReq : requested.tx.wf = true ∧ requested.crcSwap = false ∧
    (0x75#8, 0xFD#8) = crcCompute [0xF7#8, 0x03#8, (5042#16).extractLsb' 8 8, (5042#16).extractLsb' 0 8,
      requested.arg0.extractLsb' 8 8, requested.arg0.extractLsb' 0 8] := by decide +kernel

/-- A field of each integer kind, ending at the last payload byte, at descriptor index 63 too. -/
theorem witness_ExtractIntegerResult :
    ((accepted [0x01#8, 0x12#8, 0x34#8] 0x80000001#32).desc[63]).getLsbD 31 = true ∧
    (accepted [0x01#8, 0x12#8, 0x34#8] 0x80000001#32).payloadValid = true ∧
    (0x80000001#32).extractLsb' 16 4 = 0#4 ∧ 1 + 2 ≤ (accepted [0x01#8, 0x12#8, 0x34#8] 0x80000001#32).plen ∧
    (0x80210000#32).extractLsb' 16 4 = 1#4 ∧ 0 + 2 ≤ (accepted [0xFF#8, 0x38#8] 0x80210000#32).plen ∧
    (0x80020000#32).extractLsb' 16 4 = 2#4 ∧ 0 + 4 ≤ (accepted [0#8, 0#8, 8#8, 0#8] 0x80020000#32).plen ∧
    (0x80030000#32).extractLsb' 16 4 = 3#4 ∧ 0 + 4 ≤ (accepted [0#8, 0#8, 8#8, 0#8] 0x80030000#32).plen := by
  decide +kernel

/-- A string that ends at the last payload byte, and one of width 0 that starts past it. -/
theorem witness_ExtractStringResult :
    ((accepted [0x41#8, 0#8, 0x42#8, 0#8] 0x80040400#32).desc[0]).getLsbD 31 = true ∧
    (0x80040400#32).extractLsb' 16 4 = 4#4 ∧ (accepted [0x41#8, 0#8, 0x42#8, 0#8] 0x80040400#32).payloadValid = true ∧
    0 + 4 ≤ (accepted [0x41#8, 0#8, 0x42#8, 0#8] 0x80040400#32).plen ∧
    (0x80040002#32).extractLsb' 16 4 = 4#4 ∧ 2 + 0 ≤ (accepted [0x01#8, 0x02#8] 0x80040002#32).plen := by
  decide +kernel

/-- Each clause of R164 at its boundary: index 64; an unloaded descriptor; KIND 5; KIND 4 with no frame; and a
field one byte too long of each width. -/
theorem witness_ExtractChecksInOrder :
    64 ≤ 64 ∧ (State.reset.desc[63]).getLsbD 31 = false ∧ 5 ≤ ((0x80050000#32).extractLsb' 16 4).toNat ∧
    ((0x80040000#32).getLsbD 31 = true ∧ ((0x80040000#32).extractLsb' 16 4).toNat ≤ 4 ∧
      ({ accepted [] 0x80040000#32 with payloadValid := false } : State).payloadValid = false) ∧
    (accepted [1#8, 2#8] 0x80000001#32).plen < ((0x80000001#32).extractLsb' 0 8).toNat + 2 ∧
    (accepted [1#8, 2#8, 3#8] 0x80020000#32).plen < ((0x80020000#32).extractLsb' 0 8).toNat + 4 ∧
    (accepted [1#8, 2#8] 0x80040300#32).plen <
      ((0x80040300#32).extractLsb' 0 8).toNat + ((0x80040300#32).extractLsb' 8 8).toNat := by
  decide +kernel

/-- Ties above and below zero. -/
theorem witness_RoundingIsNearestWithTieRule :
    (0 : Int) < 10 ∧ 2 * ((125 : Int) % 10) = 10 ∧ (0 : Int) ≤ 125 ∧ 2 * ((-125 : Int) % 10) = 10 ∧
      (-125 : Int) < 0 := by decide

/-- ScalingRoundTrip and TemperatureUnitsConvert. -/
theorem witness_ScalingAndTemperature : 0 ≤ 2 ∧ 2 ≤ 2 ∧ 3 ≤ 3 := by decide

theorem witness_ValueFitsSigned64 :
    (-2147483648 : Int) ≤ -2147483648 ∧ (4294967295 : Int) ≤ 4294967295 ∧ 3 ≤ 3 := by decide

/-- Another RX with the same payload and another CRC. -/
theorem witness_ExtractReadsOnlyPayload :
    (∀ o, o < (accepted [1#8, 2#8] 0x80000000#32).plen →
      payloadByte (accepted [1#8, 2#8] 0x80000000#32).rx o =
        payloadByte (Memory.writeList [] 0 [0#8, 0#8, 0#8, 1#8, 2#8, 9#8]) o) ∧
    observe (exec (.extract 0) (accepted [1#8, 2#8] 0x80000000#32)) (fun t => t.raw) = some 0x102#32 := by
  decide +kernel

/-- The first and the last field, and both bits of one. -/
theorem witness_DecAlarmReadsTwoBits : 0 < 16 ∧ 15 < 16 ∧ 0 < 2 ∧ 1 < 2 := by decide

theorem witness_OneHotWordsDecodeOneHot :
    (sourceWord .arg0 { State.reset with arg0 := 0x1#32 }).extractLsb' 0 16 = 1#16 <<< (15 - 15) ∧
    (sourceWord .raw { State.reset with raw := 0xABCD8000#32 }).extractLsb' 0 16 = 1#16 <<< (15 - 0) ∧
    sourceWord .raw { State.reset with raw := 0x80000000#32 } = 0b10#32 <<< (2 * 15) ∧
    sourceWord .arg0 { State.reset with arg0 := 0x2#32 } = 0b10#32 <<< (2 * 0) := by decide

/-- RegisterMapMatchesOffsets: the first and the last offset of each unmapped range of R43, and the registers beside them. -/
theorem witness_RegisterMap :
    registerOf 0x04C#12 = .unmapped ∧ registerOf 0x0FC#12 = .unmapped ∧ registerOf 0x200#12 = .unmapped ∧
    registerOf 0x3FC#12 = .unmapped ∧ registerOf 0x504#12 = .unmapped ∧ registerOf 0x5FC#12 = .unmapped ∧
    registerOf 0x608#12 = .unmapped ∧ registerOf 0xFFC#12 = .unmapped ∧ registerOf 0x048#12 = .txLen ∧
    registerOf 0x100#12 = .desc 0 ∧ registerOf 0x1FC#12 = .desc 63 ∧ registerOf 0x400#12 = .rxWin 0 ∧
    registerOf 0x500#12 = .rxWin 64 ∧ registerOf 0x604#12 = .txWin 1 := by decide +kernel

theorem witness_HostReadHasNoSideEffect :
    (facing [.read 4 0x02C#12]).pending = .read 4 0x02C#12 :: [] ∧ (0x02C#12).toNat % 4 = 0 := by decide

/-- CtrlWriteKeepsLegalUnit: each of the four values of v[1:0]. -/
theorem witness_CtrlWriteKeepsLegalUnit :
    (facing [.write 4 0x004#12 3#32]).pending = .write 4 0x004#12 3#32 :: [] ∧
    (0xC#32).extractLsb' 0 2 = 0#2 ∧ (0x1#32).extractLsb' 0 2 = 1#2 ∧ (0x2#32).extractLsb' 0 2 = 2#2 ∧
    (0x3#32).extractLsb' 0 2 = 3#2 := by decide

/-- StatusWriteClearsOnlyStickyBits and DescWriteMasksReservedBits. -/
theorem witness_RegisterWrites :
    (facing [.write 4 0x008#12 0x300#32]).pending = .write 4 0x008#12 0x300#32 :: [] ∧
    (facing [.write 4 0x1FC#12 3#32]).pending = .write 4 (BitVec.ofNat 12 (0x100 + 4 * (63 : Fin 64).val)) 3#32 :: [] ∧
    (∃ t, exec .nop State.reset = .next t) := ⟨by decide, by decide, _, rfl⟩

/-- A read-only register and an unmapped offset beside those that are written. -/
theorem witness_PlainWritesStoreOrAreIgnored :
    (facing [.write 4 0x010#12 1#32]).pending = .write 4 0x010#12 1#32 :: [] ∧
    ((0x048#12).toNat % 4 = 0 ∧ 0x048#12 ∉ [0x004#12, 0x008#12, 0x00C#12, 0x010#12, 0x02C#12] ∧
      ¬(0x100 ≤ (0x048#12).toNat ∧ (0x048#12).toNat ≤ 0x1FC)) ∧
    ((0x200#12).toNat % 4 = 0 ∧ 0x200#12 ∉ [0x004#12, 0x008#12, 0x00C#12, 0x010#12, 0x02C#12] ∧
      ¬(0x100 ≤ (0x200#12).toNat ∧ (0x200#12).toNat ≤ 0x1FC)) := by decide

theorem witness_UnmappedOffsetsAreInert :
    (facing [.read 4 0x04C#12]).pending = .read 4 0x04C#12 :: [] ∧
    (facing [.write 4 0xFFC#12 1#32]).pending = .write 4 0xFFC#12 1#32 :: [] ∧ (0x04C#12).toNat % 4 = 0 ∧
    (0x04C ≤ (0x04C#12).toNat ∧ (0x04C#12).toNat ≤ 0x0FC) ∧
    (0x608 ≤ (0xFFC#12).toNat ∧ (0xFFC#12).toNat ≤ 0xFFC) := by decide

theorem witness_WindowsPackLittleEndianAndMask :
    3 < 4 ∧ 4 * (64 : Fin 65).val + 3 < full.rxLen.val ∧ 4 * (1 : Fin 2).val + 3 < requested.txLen.val := by
  decide +kernel

theorem witness_OtherAccessesAreRefused :
    (2 ≠ 4 ∨ (0x000#12).toNat % 4 ≠ 0) ∧ (4 ≠ 4 ∨ (0x002#12).toNat % 4 ≠ 0) ∧
    (facing [.read 2 0x000#12]).pending = .read 2 0x000#12 :: [] ∧
    (facing [.write 4 0x002#12 1#32]).pending = .write 4 0x002#12 1#32 :: [] := by decide

/-- ResetLeavesResetValues, ResetDuringCommandIsBeforeOrAfter and NothingChangesWithoutAnAccess. -/
theorem witness_Resets :
    (facing [.reset]).pending = .reset :: [] ∧
    (facing [.resetDuringCommand 0x00000001#32]).pending = .resetDuringCommand 0x00000001#32 :: [] ∧
    State.reset.pending = [] := by decide

/-- NoCommandWritesHostState and ResultRegistersHaveOneWriter: NOP is the writer of no result. -/
theorem witness_CommandFrames :
    ∃ t, exec .nop State.reset = .next t ∧ (∀ idx, Instr.nop ≠ .extract idx) ∧ (∀ src, Instr.nop ≠ .decFlags src) ∧
      (∀ src idx, Instr.nop ≠ .decAlarm src idx) ∧ (∀ addr start, Instr.nop ≠ .frameReq addr start) ∧
      Instr.nop ≠ .frameParse ∧ (∀ e, Instr.nop ≠ .crcVerify e) ∧ Instr.nop ≠ .crcInit ∧
      (∀ b, Instr.nop ≠ .crcByte b) ∧ (∀ b, Instr.nop ≠ .crcPoly b) ∧ (∀ buf n, Instr.nop ≠ .crcBuf buf n) ∧
      Instr.nop ≠ .rxClear :=
  ⟨_, rfl, by simp⟩

theorem witness_PayloadValidIsSetOnlyByParse :
    observe (step { holding s2 with pending := [cmdWrite .frameParse] }) (fun t => t.payloadValid) = some true ∧
    ({ holding s2 with pending := [cmdWrite .frameParse] } : State).payloadValid = false := by decide +kernel

theorem witness_ErrSeenIsSticky :
    observe (step { facing [.write 4 0x008#12 0x100#32] with errSeen := true }) (fun t => t.errSeen) = some false := by
  decide +kernel

theorem witness_StepsExistInsideTheInterface :
    step (facing [.busError]) = .refused .busError ∧ step (facing [.read 1 0x000#12]) = .refused .outsideInterface :=
  ⟨rfl, rfl⟩

/-- An accepted frame satisfies the invariant. -/
theorem witness_invariant_accepted : (accepted s2Payload 0x80200000#32).Inv where
  rxCanonical := by decide +kernel
  rxCells := by decide +kernel
  txCanonical := by decide +kernel
  txCells := by decide +kernel
  txLength := by decide +kernel
  descReserved := by decide +kernel
  accepted := fun _ =>
    { length := by decide +kernel
      info := by decide +kernel
      status := by decide +kernel
      checksum := ⟨false, by decide +kernel⟩
      crcs := by decide +kernel }
  request := fun h => absurd h (by decide +kernel)

/-- StepKeepsInvariant: a state with an accepted frame, and a step from it. -/
theorem witness_StepKeepsInvariant :
    ∃ t, step (accepted s2Payload 0x80200000#32) = .next t := ⟨_, rfl⟩

/-- Bytes left in RX behind an RX_LEN of 0. -/
def stale : State := { State.reset with rx := [(3, 0x55#8)] }

/-- HiddenBytesAreUnobservable: two different states that look the same. -/
theorem witness_HiddenBytesAreUnobservable : stale ≠ { stale with rx := [] } ∧ stale.SameVisible { stale with rx := [] } :=
  ⟨by decide +kernel, rfl, fun k hk => absurd hk (Nat.not_lt_zero k), fun k hk => absurd hk (Nat.not_lt_zero k)⟩

theorem witness_invariant_stale : stale.Inv ∧ State.Inv { stale with rx := [] } := by
  constructor <;> constructor <;> first
    | decide +kernel
    | (intro h; exact absurd h (by decide +kernel))

end Sys2Proof.Tests
end

section
/-!
PROOF of O52. How a command ends: `complete` and `raise` are said once, then each command is followed along its checks.
-/

namespace Sys2Proof.Machine

/-- How a command ends that may raise only `errs`, `seen` being ERR_SEEN before it (R10, R221, R224). -/
def EndsWithin (errs : List CmdError) (seen : Bool) (r : Result) : Prop :=
  ∃ t, r = .next t ∧
    ((t.lastErr = none ∧ t.errSeen = seen) ∨ (∃ e ∈ errs, t.lastErr = some e ∧ t.errSeen = true))

/-- Completing never sets ERR_SEEN, so every list of errors allows it. -/
theorem complete_endsWithin {errs : List CmdError} (s : State) : EndsWithin errs s.errSeen (complete s) :=
  ⟨s.withOk, rfl, .inl ⟨s.withOk_lastErr, s.withOk_errSeen⟩⟩

/-- Raising sets ERR_SEEN whatever it was before: the error has only to be a listed one. -/
theorem raise_endsWithin {errs : List CmdError} {e : CmdError} {seen : Bool} {s : State} (he : e ∈ errs) :
    EndsWithin errs seen (raise e s) :=
  ⟨s.withError e, rfl, .inr ⟨e, he, s.withError_lastErr e, s.withError_errSeen e⟩⟩

theorem execCrcBuf_endsWithin (buf : Buffer) (n : Nat) (s : State) :
    EndsWithin (raisable (.crcBuf buf n)) s.errSeen (execCrcBuf buf n s) := by
  unfold execCrcBuf
  split
  · exact raise_endsWithin (by simp [raisable])
  · exact complete_endsWithin (s.withAcc _)

theorem execCrcVerify_endsWithin (expect : Half) (s : State) :
    EndsWithin (raisable (.crcVerify expect)) s.errSeen (execCrcVerify expect s) := by
  unfold execCrcVerify
  split
  · exact complete_endsWithin (s.withCrcMatch true)
  · exact raise_endsWithin (by simp [raisable])

theorem execExtract_endsWithin (idx : Nat) (s : State) :
    EndsWithin (raisable (.extract idx)) s.errSeen (execExtract idx s) := by
  unfold execExtract
  split
  · exact raise_endsWithin (by simp [raisable])
  · next d k _ =>
    split
    · exact raise_endsWithin (by simp [raisable])
    · split
      · exact raise_endsWithin (by simp [raisable])
      · exact extractField_errSeen d k s ▸ complete_endsWithin (extractField d k s)

/-! ### FRAME.PARSE, from its last step to its first -/

theorem parseChecksum_endsWithin (s : State) : EndsWithin (raisable .frameParse) s.errSeen (parseChecksum s) := by
  by_cases h : expectedCrc s s.rxLen.val = receivedCrc s s.rxLen.val
  · rw [parseChecksum_of_match h]
    exact complete_endsWithin ((s.withFrameCrc _).withPayloadValid true)
  · rw [parseChecksum_of_mismatch h]
    exact raise_endsWithin (by decide)

theorem parseHeader_endsWithin (s : State) : EndsWithin (raisable .frameParse) s.errSeen (parseHeader s) := by
  by_cases hr : s.rx.read 1 = 0x83#8 ∨ s.rx.read 1 = 0x86#8
  · rw [parseHeader_of_rejected hr]
    exact raise_endsWithin (by decide)
  · by_cases hl : s.rxLen.val = (s.rx.read 2).toNat + 5
    · rw [parseHeader_of_length hr hl]
      exact parseChecksum_endsWithin (s.withFrameInfo _)
    · rw [parseHeader_of_wrong_length hr hl]
      exact raise_endsWithin (by decide)

theorem execFrameParse_endsWithin (s : State) : EndsWithin (raisable .frameParse) s.errSeen (execFrameParse s) := by
  obtain h | h := Nat.lt_or_ge s.rxLen.val 5
  · rw [execFrameParse_of_short h]
    exact raise_endsWithin (by decide)
  · rw [execFrameParse_of_long h]
    exact parseHeader_endsWithin (s.withPayloadValid false)

/-- Every command ends with no error or with one of its row of R221. The commands without a check complete from a
state that differs from `s` in their result only. -/
theorem exec_endsWithin (i : Instr) (s : State) : EndsWithin (raisable i) s.errSeen (exec i s) := by
  cases i with
  | nop => exact complete_endsWithin s
  | crcInit => exact complete_endsWithin (s.withAcc _)
  | crcByte data => exact complete_endsWithin (s.withAcc _)
  | crcPoly data => exact complete_endsWithin (s.withAcc _)
  | crcBuf buf n => exact execCrcBuf_endsWithin buf n s
  | crcVerify expect => exact execCrcVerify_endsWithin expect s
  | rxClear => exact complete_endsWithin ((s.withRx _ _).withPayloadValid false)
  | frameParse => exact execFrameParse_endsWithin s
  | frameReq addr start => exact complete_endsWithin (s.withTx _ _)
  | extract idx => exact execExtract_endsWithin idx s
  | decFlags src => exact complete_endsWithin (s.withFlags _)
  | decAlarm src idx => exact complete_endsWithin (s.withLevel _)

/-- Settles O52: every command's end is within its row of R221. -/
theorem everyCommandCompletesWithListedError : Obligations.EveryCommandCompletesWithListedError :=
  exec_endsWithin

end Sys2Proof.Machine
end

section
/-!
SUPPORT. What one command and one step can do, said once: the ends of every command, the effects of a bus event, and
the offsets of the register map. The proofs about the state below rest on these.
-/

namespace Sys2Proof.Machine

/-! ### How a command ends -/

/-- FRAME_INFO as FRAME.PARSE records it: the header bytes, lowest index in the lowest bits (R134 step 2). -/
def frameHeader (s : State) : BitVec 24 := s.rx.read 2 ++ s.rx.read 1 ++ s.rx.read 0

/-- FRAME_CRC as FRAME.PARSE records it: the received pair over the expected pair (R134 step 5). -/
def frameCrcPairs (s : State) : Word :=
  (receivedCrc s s.rxLen.val).1 ++ (receivedCrc s s.rxLen.val).2 ++
    (expectedCrc s s.rxLen.val).1 ++ (expectedCrc s s.rxLen.val).2

/-- The status byte in RX is one of the two that reject (R131). -/
def RejectingStatus (s : State) : Prop := s.rx.read 1 = 0x83#8 ∨ s.rx.read 1 = 0x86#8

/-- The request FRAME.REQ puts in TX: the head, then the CRC of the head in wire order (R130, R136). -/
def requestTx (addr : Byte) (start : Half) (s : State) : Memory :=
  let head := s.tx.writeList 0 (requestHead addr start (s.arg0.extractLsb' 0 16))
  let crc := wireOrder s.crcSwap (crcCompute (head.slice 0 6))
  (head.write 6 crc.1).write 7 crc.2

/-- Every way in which a command can end: the state it leaves, and the checks that lead there. -/
inductive CommandEnd : Instr → State → State → Prop
  | nop (s : State) : CommandEnd .nop s s.withOk
  | crcInit (s : State) : CommandEnd .crcInit s (s.withAcc crcSeed).withOk
  | crcByte (data : Byte) (s : State) :
      CommandEnd (.crcByte data) s (s.withAcc (crcStepTbl s.crcHi s.crcLo data)).withOk
  | crcPoly (data : Byte) (s : State) :
      CommandEnd (.crcPoly data) s
        (s.withAcc ((crcStepPoly (s.crcLo ++ s.crcHi) data).extractLsb' 0 8,
          (crcStepPoly (s.crcLo ++ s.crcHi) data).extractLsb' 8 8)).withOk
  | crcBuf {buf : Buffer} {n : Nat} {s : State} (hn : n ≤ bufferLength buf s) :
      CommandEnd (.crcBuf buf n) s (s.withAcc (crcFold s.acc ((bufferBytes buf s).slice 0 n))).withOk
  | crcBufTooLong {buf : Buffer} {n : Nat} {s : State} (hn : bufferLength buf s < n) :
      CommandEnd (.crcBuf buf n) s (s.withError .bufferRange)
  | verified {expect : Half} {s : State} (he : s.crcHi ++ s.crcLo = expect) :
      CommandEnd (.crcVerify expect) s (s.withCrcMatch true).withOk
  | verifyFailed {expect : Half} {s : State} (he : s.crcHi ++ s.crcLo ≠ expect) :
      CommandEnd (.crcVerify expect) s ((s.withCrcMatch false).withError .checksumMismatch)
  | rxClear (s : State) : CommandEnd .rxClear s ((s.withRx s.rx 0).withPayloadValid false).withOk
  | parseTooShort {s : State} (hlen : s.rxLen.val < 5) :
      CommandEnd .frameParse s ((s.withPayloadValid false).withError .tooShort)
  | parseRejected {s : State} (hlen : 5 ≤ s.rxLen.val) (hrej : RejectingStatus s) :
      CommandEnd .frameParse s
        ((((s.withPayloadValid false).withFrameInfo (frameHeader s)).withDevErr (s.rx.read 2)).withError
          .deviceRejected)
  | parseWrongLength {s : State} (hlen : 5 ≤ s.rxLen.val) (hrej : ¬RejectingStatus s)
      (hplen : s.rxLen.val ≠ (s.rx.read 2).toNat + 5) :
      CommandEnd .frameParse s
        (((s.withPayloadValid false).withFrameInfo (frameHeader s)).withError .lengthMismatch)
  | parseMismatch {s : State} (hlen : 5 ≤ s.rxLen.val) (hrej : ¬RejectingStatus s)
      (hplen : s.rxLen.val = (s.rx.read 2).toNat + 5)
      (hcrc : expectedCrc s s.rxLen.val ≠ receivedCrc s s.rxLen.val) :
      CommandEnd .frameParse s
        ((((s.withPayloadValid false).withFrameInfo (frameHeader s)).withFrameCrc (frameCrcPairs s)).withError
          .checksumMismatch)
  | parseAccepted {s : State} (hlen : 5 ≤ s.rxLen.val) (hrej : ¬RejectingStatus s)
      (hplen : s.rxLen.val = (s.rx.read 2).toNat + 5)
      (hcrc : expectedCrc s s.rxLen.val = receivedCrc s s.rxLen.val) :
      CommandEnd .frameParse s
        ((((s.withPayloadValid false).withFrameInfo (frameHeader s)).withFrameCrc
          (frameCrcPairs s)).withPayloadValid true).withOk
  | frameReq (addr : Byte) (start : Half) (s : State) :
      CommandEnd (.frameReq addr start) s (s.withTx (requestTx addr start s) (Fin.last Config.txCap)).withOk
  | extractUnknown {idx : Nat} {s : State} (hd : selectDescriptor s idx = none) :
      CommandEnd (.extract idx) s (s.withError .unknownSection)
  | extractNoFrame {idx : Nat} {d : Word} {k : FieldKind} {s : State} (hd : selectDescriptor s idx = some (d, k))
      (hv : s.payloadValid = false) :
      CommandEnd (.extract idx) s (s.withError .noFrame)
  | extractOutOfRange {idx : Nat} {d : Word} {k : FieldKind} {s : State}
      (hd : selectDescriptor s idx = some (d, k)) (hv : s.payloadValid = true)
      (hr : s.plen < descOffset d + fieldWidth d k) :
      CommandEnd (.extract idx) s (s.withError .decodeOutOfRange)
  | extracted {idx : Nat} {d : Word} {k : FieldKind} {s : State} (hd : selectDescriptor s idx = some (d, k))
      (hv : s.payloadValid = true) (hr : descOffset d + fieldWidth d k ≤ s.plen) :
      CommandEnd (.extract idx) s (extractField d k s).withOk
  | decFlags (src : WordSource) (s : State) :
      CommandEnd (.decFlags src) s (s.withFlags (flagVector ((sourceWord src s).extractLsb' 0 16))).withOk
  | decAlarm (src : WordSource) (idx : Nat) (s : State) :
      CommandEnd (.decAlarm src idx) s (s.withLevel (alarmField (sourceWord src s) idx)).withOk

theorem execCrcBuf_end (buf : Buffer) (n : Nat) (s : State) :
    ∃ t, execCrcBuf buf n s = .next t ∧ CommandEnd (.crcBuf buf n) s t := by
  obtain hn | hn := Nat.lt_or_ge (bufferLength buf s) n
  · exact ⟨_, if_pos hn, .crcBufTooLong hn⟩
  · exact ⟨_, if_neg (Nat.not_lt.2 hn), .crcBuf hn⟩

theorem execCrcVerify_end (expect : Half) (s : State) :
    ∃ t, execCrcVerify expect s = .next t ∧ CommandEnd (.crcVerify expect) s t := by
  by_cases he : s.crcHi ++ s.crcLo = expect
  · exact ⟨_, if_pos he, .verified he⟩
  · exact ⟨_, if_neg he, .verifyFailed he⟩

theorem execFrameParse_end (s : State) : ∃ t, execFrameParse s = .next t ∧ CommandEnd .frameParse s t := by
  obtain hlen | hlen := Nat.lt_or_ge s.rxLen.val 5
  · exact ⟨_, execFrameParse_of_short hlen, .parseTooShort hlen⟩
  rw [execFrameParse_of_long hlen]
  by_cases hrej : RejectingStatus s
  · exact ⟨_, parseHeader_of_rejected hrej, .parseRejected hlen hrej⟩
  by_cases hplen : s.rxLen.val = (s.rx.read 2).toNat + 5
  · rw [parseHeader_of_length (s := s.withPayloadValid false) hrej hplen]
    by_cases hcrc : expectedCrc s s.rxLen.val = receivedCrc s s.rxLen.val
    · exact ⟨_, parseChecksum_of_match hcrc, .parseAccepted hlen hrej hplen hcrc⟩
    · exact ⟨_, parseChecksum_of_mismatch hcrc, .parseMismatch hlen hrej hplen hcrc⟩
  · exact ⟨_, parseHeader_of_wrong_length hrej hplen, .parseWrongLength hlen hrej hplen⟩

/-- EXTRACT once its descriptor is known. -/
theorem execExtract_of_some {s : State} {idx : Nat} {d : Word} {k : FieldKind}
    (hd : selectDescriptor s idx = some (d, k)) :
    execExtract idx s =
      if s.payloadValid = false then raise .noFrame s
      else if descOffset d + fieldWidth d k > s.plen then raise .decodeOutOfRange s
      else complete (extractField d k s) := by
  simp only [execExtract, hd]

theorem execExtract_of_none {s : State} {idx : Nat} (hd : selectDescriptor s idx = none) :
    execExtract idx s = raise .unknownSection s := by
  simp only [execExtract, hd]

theorem execExtract_end (idx : Nat) (s : State) :
    ∃ t, execExtract idx s = .next t ∧ CommandEnd (.extract idx) s t := by
  cases hd : selectDescriptor s idx with
  | none => exact ⟨_, execExtract_of_none hd, .extractUnknown hd⟩
  | some p =>
    rw [execExtract_of_some hd]
    cases hv : s.payloadValid with
    | false => exact ⟨_, rfl, .extractNoFrame hd hv⟩
    | true =>
      obtain hr | hr := Nat.lt_or_ge s.plen (descOffset p.1 + fieldWidth p.1 p.2)
      · exact ⟨_, if_pos hr, .extractOutOfRange hd hv hr⟩
      · exact ⟨_, if_neg (Nat.not_lt.2 hr), .extracted hd hv hr⟩

/-- Every command answers a next state, in one of its ways. -/
theorem exec_end (i : Instr) (s : State) : ∃ t, exec i s = .next t ∧ CommandEnd i s t := by
  cases i with
  | nop => exact ⟨_, rfl, .nop s⟩
  | crcInit => exact ⟨_, rfl, .crcInit s⟩
  | crcByte data => exact ⟨_, rfl, .crcByte data s⟩
  | crcPoly data => exact ⟨_, rfl, .crcPoly data s⟩
  | crcBuf buf n => exact execCrcBuf_end buf n s
  | crcVerify expect => exact execCrcVerify_end expect s
  | rxClear => exact ⟨_, rfl, .rxClear s⟩
  | frameParse => exact execFrameParse_end s
  | frameReq addr start => exact ⟨_, rfl, .frameReq addr start s⟩
  | extract idx => exact execExtract_end idx s
  | decFlags src => exact ⟨_, rfl, .decFlags src s⟩
  | decAlarm src idx => exact ⟨_, rfl, .decAlarm src idx s⟩

/-- The inversion of `exec`: a next state is one of the command's ends. -/
theorem commandEnd_of_exec {i : Instr} {s t : State} (h : exec i s = .next t) : CommandEnd i s t := by
  obtain ⟨u, hu, hend⟩ := exec_end i s
  cases hu.symm.trans h
  exact hend

/-! ### What a write to CMD can do -/

theorem command_of_ok {w : Word} {i : Instr} (h : decode w = .ok i) (s : State) : command w s = exec i s := by
  simp only [command, h]

theorem command_of_error {w : Word} {e : DecodeError} (h : decode w = .error e) (s : State) :
    command w s = .next (s.withError .illegalCommand) := by
  simp only [command, h, raise]

/-- The inversion of `command`: an end of the decoded command, or ILLEGAL_COMMAND. -/
theorem command_cases {w : Word} {s t : State} (h : command w s = .next t) :
    (∃ i, decode w = .ok i ∧ CommandEnd i s t) ∨ t = s.withError .illegalCommand := by
  cases hd : decode w with
  | ok i => exact .inl ⟨i, rfl, commandEnd_of_exec (command_of_ok hd s ▸ h)⟩
  | error e =>
    rw [command_of_error hd] at h
    cases h
    exact .inr rfl

/-- The only word of FRAME.PARSE (R82: its mask is all ones). -/
theorem word_of_decode_frameParse {w : Word} (h : decode w = .ok .frameParse) : w = 0x00000011#32 := by
  obtain ⟨o, hopc, hops⟩ := decode_eq_ok.1 h
  obtain rfl : Opcode.frameParse = o := opcode_of_decodeOperands hops
  obtain ⟨hzero, -⟩ := onlyIf_eq_ok.1 hops
  obtain ⟨ha, hb⟩ : fieldA w = 0#8 ∧ fieldB w = 0#16 := by simpa using hzero
  rw [← commandWord_fields w, hopc, ha, hb]
  rfl

/-! ### The register map -/

/-- The words of the map that hold no register (R43), by word index. -/
theorem registerAt_eq_unmapped (q : Nat) :
    registerAt q = .unmapped ↔
      (19 ≤ q ∧ q < 0x40) ∨ (0x80 ≤ q ∧ q < 0x100) ∨ (0x141 ≤ q ∧ q < 0x180) ∨ 0x182 ≤ q := by
  have hlow : ∀ q < 19, lowRegisters.getD q .unmapped ≠ .unmapped := by decide
  unfold registerAt
  split_ifs with h1 h2 h3 h4 h5 h6
  · obtain hq | hq := Nat.lt_or_ge q 19
    · simp only [hlow q hq, false_iff]
      omega
    · have hnone : lowRegisters.getD q .unmapped = .unmapped := List.getD_eq_default _ _ hq
      simp only [hnone, true_iff]
      omega
  all_goals simp only [true_iff, false_iff]; omega

/-- The register at a word index stands at four times that index (R20). -/
theorem offset_registerAt (q : Nat) (h : registerAt q ≠ .unmapped) :
    (registerAt q).offset = some (BitVec.ofNat 12 (4 * q)) := by
  have hlow : ∀ q < 19, (lowRegisters.getD q .unmapped).offset = some (BitVec.ofNat 12 (4 * q)) := by decide
  rw [ne_eq, registerAt_eq_unmapped] at h
  unfold registerAt
  split_ifs with h1 h2 h3 h4 h5 h6
  · exact hlow q (by omega)
  · exact congrArg (fun n => some (BitVec.ofNat 12 n)) (by omega : 0x100 + 4 * (q - 0x40) = 4 * q)
  · omega
  · exact congrArg (fun n => some (BitVec.ofNat 12 n)) (by omega : 0x400 + 4 * (q - 0x100) = 4 * q)
  · omega
  · exact congrArg (fun n => some (BitVec.ofNat 12 n)) (by omega : 0x600 + 4 * (q - 0x180) = 4 * q)
  · omega

/-- An aligned offset that selects a register is that register's own. -/
theorem offset_registerOf {off : BitVec 12} (ha : off.toNat % 4 = 0) (h : registerOf off ≠ .unmapped) :
    (registerOf off).offset = some off := by
  rw [registerOf, offset_registerAt _ h, Option.some.injEq, Nat.mul_div_cancel' (Nat.dvd_of_mod_eq_zero ha),
    BitVec.ofNat_toNat, BitVec.setWidth_eq]

/-- Two registers at one offset are one register: an aligned offset that selects `r` is `r`'s. -/
theorem offset_of_registerOf_eq {off o : BitVec 12} {r : HostReg} (ha : off.toNat % 4 = 0)
    (hr : registerOf off = r) (ho : r.offset = some o) : off = o := by
  have hmap : registerOf off ≠ .unmapped := by
    rintro hu
    rw [← hr, hu] at ho
    cases ho
  have hoff := offset_registerOf ha hmap
  rw [hr, ho] at hoff
  exact (Option.some.inj hoff).symm

theorem registerAt_desc (i : Fin 64) : registerAt (0x40 + i.val) = .desc i := by
  simp [registerAt]

theorem registerAt_rxWin (k : Fin 65) : registerAt (0x100 + k.val) = .rxWin k := by
  rw [registerAt, if_neg (by omega), dif_neg (by omega), if_neg (by omega), dif_pos (by omega)]
  simp

theorem registerAt_txWin (k : Fin 2) : registerAt (0x180 + k.val) = .txWin k := by
  rw [registerAt, if_neg (by omega), dif_neg (by omega), if_neg (by omega), dif_neg (by omega), if_neg (by omega),
    dif_pos (by omega)]
  simp

theorem registerOf_ofNat {q : Nat} (hq : q < 1024) : registerOf (BitVec.ofNat 12 (4 * q)) = registerAt q := by
  rw [registerOf, BitVec.toNat_ofNat, Nat.mod_eq_of_lt (by omega), Nat.mul_div_cancel_left q (by omega)]

/-- A register's offset selects it (R20). -/
theorem registerOf_of_offset {r : HostReg} {off : BitVec 12} (h : r.offset = some off) : registerOf off = r := by
  cases r
  case desc i =>
    cases h
    rw [show 0x100 + 4 * i.val = 4 * (0x40 + i.val) by omega, registerOf_ofNat (by omega), registerAt_desc]
  case rxWin k =>
    cases h
    rw [show 0x400 + 4 * k.val = 4 * (0x100 + k.val) by omega, registerOf_ofNat (by omega), registerAt_rxWin]
  case txWin k =>
    cases h
    rw [show 0x600 + 4 * k.val = 4 * (0x180 + k.val) by omega, registerOf_ofNat (by omega), registerAt_txWin]
  case unmapped => cases h
  all_goals cases h; rfl

/-! ### The RX_PUSH write -/

theorem rxPush_of_room {s : State} (h : s.rxLen.val < Config.rxCap) (v : Word) :
    rxPush v s = (s.withPayloadValid false).withRx (s.rx.write s.rxLen.val (v.extractLsb' 0 8))
      ⟨s.rxLen.val + 1, Nat.succ_lt_succ h⟩ := dif_pos h

theorem rxPush_of_full {s : State} (h : ¬s.rxLen.val < Config.rxCap) (v : Word) :
    rxPush v s = (s.withPayloadValid false).withRxOvf := dif_neg h

@[simp] theorem rxPush_payloadValid (v : Word) (s : State) : (rxPush v s).payloadValid = false := by
  by_cases h : s.rxLen.val < Config.rxCap
  · rw [rxPush_of_room h]; rfl
  · rw [rxPush_of_full h]; rfl

@[simp] theorem rxPush_errSeen (v : Word) (s : State) : (rxPush v s).errSeen = s.errSeen := by
  by_cases h : s.rxLen.val < Config.rxCap
  · rw [rxPush_of_room h]; rfl
  · rw [rxPush_of_full h]; rfl

/-! ### What one step can do -/

/-- Every way in which a step can answer a next state. -/
inductive StepEffect (s : State) : State → Prop
  | wait (hp : s.pending = []) : StepEffect s s
  | read {off : BitVec 12} {rest : List BusEvent} (hp : s.pending = .read 4 off :: rest)
      (ha : off.toNat % 4 = 0) : StepEffect s (hostRead (registerOf off) (s.withPending rest))
  | write {off : BitVec 12} {v : Word} {rest : List BusEvent} (hp : s.pending = .write 4 off v :: rest)
      (ha : off.toNat % 4 = 0) (hr : registerOf off ≠ .cmd) :
      StepEffect s (writeReg (registerOf off) v (s.withPending rest))
  | command {w : Word} {rest : List BusEvent} {t : State} (hp : s.pending = .write 4 0x00C#12 w :: rest)
      (hc : command w (s.withPending rest) = .next t) : StepEffect s t
  | reset {rest : List BusEvent} (hp : s.pending = .reset :: rest) : StepEffect s (s.withPending rest).afterReset
  | resetThenCommand {w : Word} {rest : List BusEvent} {t : State}
      (hp : s.pending = .resetDuringCommand w :: rest)
      (hc : command w ((s.withPending rest).withChoices (s.choices + 1)).afterReset = .next t) : StepEffect s t
  | commandThenReset {w : Word} {rest : List BusEvent} {u : State}
      (hp : s.pending = .resetDuringCommand w :: rest)
      (hc : command w ((s.withPending rest).withChoices (s.choices + 1)) = .next u) : StepEffect s u.afterReset

theorem step_cons {s : State} {e : BusEvent} {rest : List BusEvent} (hp : s.pending = e :: rest) :
    step s = performEvent e (s.withPending rest) := by
  simp only [step, hp]

theorem inInterface_eq_true {width : Nat} {off : BitVec 12} :
    inInterface width off = true ↔ width = 4 ∧ off.toNat % 4 = 0 := by
  simp [inInterface]

theorem hostWrite_cmd (v : Word) (s : State) : hostWrite .cmd v s = command v s := if_pos rfl

theorem hostWrite_of_ne_cmd {r : HostReg} (hr : r ≠ .cmd) (v : Word) (s : State) :
    hostWrite r v s = .next (writeReg r v s) := if_neg hr

/-- A step on an aligned 32-bit write to a register other than CMD. -/
theorem step_writeReg {s : State} {rest : List BusEvent} {off : BitVec 12} {v : Word} {r : HostReg}
    (hp : s.pending = .write 4 off v :: rest) (ha : off.toNat % 4 = 0) (hr : registerOf off = r) (hc : r ≠ .cmd) :
    step s = .next (writeReg r v (s.withPending rest)) := by
  rw [step_write hp ha, hr, hostWrite_of_ne_cmd hc]

/-- The inversion of a coinciding reset: it falls before the command or after it. -/
theorem resetWithCommand_cases {w : Word} {s t : State} (h : resetWithCommand w s = .next t) :
    command w (s.withChoices (s.choices + 1)).afterReset = .next t ∨
      ∃ u, command w (s.withChoices (s.choices + 1)) = .next u ∧ t = u.afterReset := by
  unfold resetWithCommand at h
  split at h
  · exact .inl h
  · cases hc : command w (s.withChoices (s.choices + 1)) with
    | next u =>
      simp only [hc, Host.Outcome.next.injEq] at h
      exact .inr ⟨u, rfl, h.symm⟩
    | fault r => simp [hc] at h
    | refused r => simp [hc] at h

/-- The inversion of `step`. -/
theorem stepEffect_of_step {s t : State} (h : step s = .next t) : StepEffect s t := by
  cases hp : s.pending with
  | nil =>
    simp only [step, hp, Host.Outcome.next.injEq] at h
    exact h ▸ .wait hp
  | cons e rest =>
    rw [step_cons hp] at h
    cases e with
    | read width off =>
      simp only [performEvent] at h
      split at h
      · obtain ⟨rfl, ha⟩ := inInterface_eq_true.1 ‹_›
        cases h
        exact .read hp ha
      · cases h
    | write width off v =>
      simp only [performEvent] at h
      split at h
      · obtain ⟨rfl, ha⟩ := inInterface_eq_true.1 ‹_›
        by_cases hr : registerOf off = .cmd
        · obtain rfl := offset_of_registerOf_eq ha hr rfl
          exact .command hp (hostWrite_cmd v _ ▸ hr ▸ h)
        · cases hostWrite_of_ne_cmd hr v _ ▸ h
          exact .write hp ha hr
      · cases h
    | reset =>
      cases h
      exact .reset hp
    | resetDuringCommand w =>
      obtain hc | ⟨u, hc, rfl⟩ := resetWithCommand_cases h
      · exact .resetThenCommand hp hc
      · exact .commandThenReset hp hc
    | busError => cases h

end Sys2Proof.Machine
end

section
/-!
PROOFS of O53 to O56. What commands and steps leave alone, read off the ends of a command and the effects of a step.
-/

namespace Sys2Proof.Machine

/-! ### What commands leave unchanged -/

/-- Settles O53: at every end of a command the host's registers, RX and the model's own fields are as before. -/
theorem noCommandWritesHostState : Obligations.NoCommandWritesHostState := by
  intro i s t h
  cases commandEnd_of_exec h <;> simp

/-- RX as a list, and not only byte by byte, is unchanged by a command. -/
theorem CommandEnd.rx_eq {i : Instr} {s t : State} (h : CommandEnd i s t) : t.rx = s.rx := by
  cases h <;> simp

theorem CommandEnd.desc_eq {i : Instr} {s t : State} (h : CommandEnd i s t) : t.desc = s.desc := by
  cases h <;> simp

theorem CommandEnd.tx_eq {i : Instr} {s t : State} (h : CommandEnd i s t)
    (hi : ∀ addr start, i ≠ .frameReq addr start) : t.tx = s.tx ∧ t.txLen = s.txLen := by
  cases h
  case frameReq addr start => exact absurd rfl (hi addr start)
  all_goals simp

/-- Settles O54: at every end but those of the listed writer the result is as before. -/
theorem resultRegistersHaveOneWriter : Obligations.ResultRegistersHaveOneWriter := by
  intro i s t h
  cases commandEnd_of_exec h <;> simp

/-! ### PAYLOAD_VALID -/

/-- A command that ends with PAYLOAD_VALID = 1 accepted a frame, or found the bit set and left it. -/
theorem CommandEnd.payloadValid_cases {i : Instr} {s t : State} (h : CommandEnd i s t)
    (hv : t.payloadValid = true) :
    (i = .frameParse ∧ 5 ≤ s.rxLen.val ∧ t.lastErr = none) ∨ s.payloadValid = true := by
  cases h
  case parseAccepted hlen _ _ _ => exact .inl ⟨rfl, hlen, rfl⟩
  case rxClear | parseTooShort | parseRejected | parseWrongLength | parseMismatch => exact nomatch (hv : false = true)
  case extracted hvalid _ => exact .inr hvalid
  all_goals exact .inr hv

/-- A write to CMD that takes PAYLOAD_VALID from 0 to 1 is FRAME.PARSE on at least five bytes, without an error. -/
theorem command_sets_payloadValid {w : Word} {s t : State} (h : command w s = .next t)
    (hs : s.payloadValid = false) (ht : t.payloadValid = true) :
    w = 0x00000011#32 ∧ 5 ≤ s.rxLen.val ∧ t.lastErr = none := by
  obtain ⟨i, hd, hend⟩ | rfl := command_cases h
  · obtain ⟨rfl, hlen, hok⟩ | hv := hend.payloadValid_cases ht
    · exact ⟨word_of_decode_frameParse hd, hlen, hok⟩
    · exact absurd hv (by simp [hs])
  · exact absurd ht (by simp [hs])

/-- No write to a register sets PAYLOAD_VALID; RX_PUSH clears it. -/
theorem writeReg_payloadValid {r : HostReg} {v : Word} {s : State} (hs : s.payloadValid = false) :
    (writeReg r v s).payloadValid = false := by
  cases r
  case rxPush => exact rxPush_payloadValid v s
  all_goals exact hs

/-- Settles O55: of the effects of a step, only a write to CMD can set the bit; after a reset RX is empty, so that
the command of a coinciding reset cannot. -/
theorem payloadValidIsSetOnlyByParse : Obligations.PayloadValidIsSetOnlyByParse := by
  intro s t h hs ht
  cases stepEffect_of_step h with
  | wait hp => exact nomatch hs.symm.trans ht
  | read hp ha => exact nomatch hs.symm.trans ht
  | @write off v rest hp ha hr => exact nomatch (writeReg_payloadValid (s := s.withPending rest) hs).symm.trans ht
  | command hp hc =>
    obtain ⟨rfl, -, hok⟩ := command_sets_payloadValid hc hs ht
    exact ⟨⟨_, hp⟩, hok⟩
  | reset hp => exact nomatch (ht : false = true)
  | resetThenCommand hp hc =>
    obtain ⟨-, hlen, -⟩ := command_sets_payloadValid hc rfl ht
    exact absurd hlen (Nat.not_succ_le_zero 4)
  | commandThenReset hp hc => exact nomatch (ht : false = true)

/-! ### ERR_SEEN -/

/-- A write to CMD never clears ERR_SEEN: a command keeps it or sets it. -/
theorem command_keeps_errSeen {w : Word} {s t : State} (h : command w s = .next t) (hs : s.errSeen = true) :
    t.errSeen = true := by
  cases hd : decode w with
  | ok i =>
    obtain ⟨u, hu, hend⟩ := exec_endsWithin i s
    rw [command_of_ok hd, hu] at h
    cases h
    obtain ⟨-, hkept⟩ | ⟨-, -, -, hset⟩ := hend
    · exact hkept.trans hs
    · exact hset
  | error e =>
    rw [command_of_error hd] at h
    cases h
    rfl

/-- A write to a register clears ERR_SEEN only when it is STATUS and bit 8 is written 1. -/
theorem writeReg_clears_errSeen {r : HostReg} {v : Word} {s : State} (hs : s.errSeen = true)
    (h : (writeReg r v s).errSeen = false) : r = .status ∧ v.getLsbD 8 = true := by
  cases r
  case status => exact ⟨rfl, by simpa [writeReg, hs] using h⟩
  case rxPush => exact absurd ((rxPush_errSeen v s).symm.trans h) (by simp [hs])
  all_goals exact nomatch hs.symm.trans h

/-- Settles O56: of the effects of a step without a reset, only a write to STATUS can clear the bit. -/
theorem errSeenIsSticky : Obligations.ErrSeenIsSticky := by
  intro s t h hs ht
  cases stepEffect_of_step h with
  | wait hp => exact nomatch hs.symm.trans ht
  | read hp ha => exact nomatch hs.symm.trans ht
  | @write off v rest hp ha hr =>
    obtain ⟨hreg, hbit⟩ := writeReg_clears_errSeen (s := s.withPending rest) hs ht
    obtain rfl := offset_of_registerOf_eq ha hreg rfl
    exact .inl ⟨_, _, hp, hbit⟩
  | command hp hc => exact nomatch (command_keeps_errSeen hc hs).symm.trans ht
  | reset hp => exact .inr (.inl ⟨_, hp⟩)
  | resetThenCommand hp hc => exact .inr (.inr ⟨_, _, hp⟩)
  | commandThenReset hp hc => exact .inr (.inr ⟨_, _, hp⟩)

end Sys2Proof.Machine
end

section
/-!
PROOFS of O58 and O59. The invariant reads eight fields of the state; it is followed through the bytes of a request,
the end of FRAME.PARSE, the register writes and the reset.
-/

namespace Sys2Proof.Machine

/-! ### What the invariant reads -/

/-- The fields that the invariant speaks of. -/
def State.guarded (s : State) :
    (Memory × Fin (Config.rxCap + 1) × Bool × BitVec 24 × Word) × (Memory × Fin (Config.txCap + 1)) ×
      Vector Word Config.descCount :=
  ((s.rx, s.rxLen, s.payloadValid, s.frameInfo, s.frameCrc), (s.tx, s.txLen), s.desc)

theorem State.HoldsAcceptedFrame.congr {s t : State} (h : s.HoldsAcceptedFrame) (hrx : t.rx = s.rx)
    (hlen : t.rxLen = s.rxLen) (hinfo : t.frameInfo = s.frameInfo) (hcrc : t.frameCrc = s.frameCrc) :
    t.HoldsAcceptedFrame := by
  obtain ⟨h1, h2, h3, h4, h5⟩ := h
  constructor <;> simpa only [State.plen, State.stat, receivedCrc, hrx, hlen, hinfo, hcrc]

theorem State.HoldsRequest.congr {s t : State} (h : s.HoldsRequest) (htx : t.tx = s.tx) : t.HoldsRequest := by
  obtain ⟨h1, h2⟩ := h
  constructor <;> simpa only [htx]

/-- TX and the descriptors unchanged and RX still canonical, the invariant is kept if an accepted frame still stands
behind PAYLOAD_VALID. -/
theorem State.Inv.of_rx {s t : State} (h : s.Inv) (hwf : t.rx.wf = true) (hcells : t.rx.below Config.rxCap = true)
    (htx : t.tx = s.tx) (htxLen : t.txLen = s.txLen) (hdesc : t.desc = s.desc)
    (hacc : t.payloadValid = true → t.HoldsAcceptedFrame) : t.Inv where
  rxCanonical := hwf
  rxCells := hcells
  txCanonical := htx ▸ h.txCanonical
  txCells := htx ▸ h.txCells
  txLength := htxLen ▸ h.txLength
  descReserved := hdesc ▸ h.descReserved
  accepted := hacc
  request := fun ht => (h.request (htxLen ▸ ht)).congr htx

/-- A state that agrees with one of the invariant on the guarded fields has the invariant. -/
theorem State.Inv.congr {s t : State} (h : s.Inv) (hg : t.guarded = s.guarded) : t.Inv := by
  simp only [State.guarded, Prod.mk.injEq] at hg
  obtain ⟨⟨hrx, hlen, hv, hinfo, hcrc⟩, ⟨htx, htxLen⟩, hdesc⟩ := hg
  exact h.of_rx (hrx ▸ h.rxCanonical) (hrx ▸ h.rxCells) htx htxLen hdesc
    fun ht => (h.accepted (hv ▸ ht)).congr hrx hlen hinfo hcrc

/-- Settles O58: the buffers are empty and PAYLOAD_VALID is 0. -/
theorem resetSatisfiesInvariant : Obligations.ResetSatisfiesInvariant where
  rxCanonical := rfl
  rxCells := rfl
  txCanonical := rfl
  txCells := rfl
  txLength := .inl rfl
  descReserved := by decide
  accepted := fun h => nomatch (h : false = true)
  request := fun h => absurd (h : 0 = 8) (by decide)

theorem afterReset_inv (s : State) : s.afterReset.Inv := resetSatisfiesInvariant.congr rfl

/-! ### The request in TX -/

/-- The CRC bytes of a request, in wire order (R104, R136). -/
def requestCrc (swap : Bool) (addr : Byte) (start count : Half) : Byte × Byte :=
  wireOrder swap (crcCompute (requestHead addr start count))

/-- The eight bytes of a request (R130, R136). -/
def requestBytes (swap : Bool) (addr : Byte) (start count : Half) : List Byte :=
  requestHead addr start count ++ [(requestCrc swap addr start count).1, (requestCrc swap addr start count).2]

/-- A list written to the start of a canonical array is what a slice reads back. -/
theorem Memory.slice_writeList_zero {m : Memory} (hm : m.wf = true) (bs : List Byte) :
    (m.writeList 0 bs).slice 0 bs.length = bs := by
  apply List.ext_getElem (by simp)
  intro j hj hj'
  simp [Memory.slice, Memory.read_writeList hm, hj']

theorem Memory.writeList_append (m : Memory) (a : Nat) (bs cs : List Byte) :
    m.writeList a (bs ++ cs) = (m.writeList a bs).writeList (a + bs.length) cs := by
  induction bs generalizing m a with
  | nil => rfl
  | cons b bs ih =>
    simp only [List.cons_append, Memory.writeList, ih, List.length_cons]
    congr 1
    omega

/-- FRAME.REQ stores the eight bytes of the request one after another (R136). -/
theorem requestTx_eq_writeList {s : State} (hs : s.tx.wf = true) (addr : Byte) (start : Half) :
    requestTx addr start s =
      s.tx.writeList 0 (requestBytes s.crcSwap addr start (s.arg0.extractLsb' 0 16)) := by
  have hhead : (s.tx.writeList 0 (requestHead addr start (s.arg0.extractLsb' 0 16))).slice 0 6 =
      requestHead addr start (s.arg0.extractLsb' 0 16) := Memory.slice_writeList_zero hs _
  simp only [requestTx, hhead, requestBytes, Memory.writeList_append]
  rfl

theorem requestTx_wf {s : State} (hs : s.tx.wf = true) (addr : Byte) (start : Half) :
    (requestTx addr start s).wf = true :=
  requestTx_eq_writeList hs addr start ▸ Memory.writeList_wf hs 0 _

theorem requestTx_below {s : State} (hs : s.tx.wf = true) (hb : s.tx.below Config.txCap = true) (addr : Byte)
    (start : Half) : (requestTx addr start s).below Config.txCap = true :=
  requestTx_eq_writeList hs addr start ▸ Memory.writeList_below hb 0 _ (le_refl 8)

/-- A byte of TX after FRAME.REQ is the request's byte. -/
theorem read_requestTx {s : State} (hs : s.tx.wf = true) (addr : Byte) (start : Half) {a : Nat} (ha : a < 8) :
    (requestTx addr start s).read a =
      (requestBytes s.crcSwap addr start (s.arg0.extractLsb' 0 16)).getD a 0#8 := by
  have hin : 0 ≤ a ∧ a < 0 + (requestBytes s.crcSwap addr start (s.arg0.extractLsb' 0 16)).length :=
    ⟨Nat.zero_le a, ha⟩
  rw [requestTx_eq_writeList hs, Memory.read_writeList hs, if_pos hin, Nat.sub_zero]

/-- A TX buffer whose bytes are those of a request holds a request. -/
theorem holdsRequest_of_requestBytes {t : State} {swap : Bool} {addr : Byte} {start count : Half}
    (h : ∀ a < 8, t.tx.read a = (requestBytes swap addr start count).getD a 0#8) : t.HoldsRequest where
  function := h 1 (by decide)
  checksum := by
    have hhead : t.tx.slice 0 6 = requestHead addr start count := by
      refine List.ext_getElem (by rw [Memory.length_slice]; rfl) fun j hj hj' => ?_
      have hj6 : j < 6 := hj'
      simp only [Memory.slice, List.getElem_map, List.getElem_range, Nat.zero_add, h j (by omega)]
      rw [requestBytes, List.getD_append _ _ _ _ hj', List.getD_eq_getElem _ _ hj']
    refine ⟨swap, ?_⟩
    rw [hhead, h 6 (by decide), h 7 (by decide)]
    rfl

/-! ### Every command keeps the invariant -/

/-- PLEN is read where FRAME.PARSE records the third header byte (R29, R134). -/
theorem plen_of_frameInfo {t : State} {plen status addr : Byte} (h : t.frameInfo = plen ++ status ++ addr) :
    t.plen = plen.toNat := by
  rw [State.plen, h, BitVec.extractLsb'_append_eq_of_le (by decide), BitVec.extractLsb'_append_eq_left]

/-- STAT is read where FRAME.PARSE records the second header byte (R29, R134). -/
theorem stat_of_frameInfo {t : State} {plen status addr : Byte} (h : t.frameInfo = plen ++ status ++ addr) :
    t.stat = status := by
  rw [State.stat, h, BitVec.extractLsb'_append_eq_of_le (by decide), BitVec.extractLsb'_append_eq_of_add_le (by decide),
    BitVec.extractLsb'_eq_self]

/-- What FRAME.PARSE checked and recorded is an accepted frame, under the wire order of its time (R134). -/
theorem holdsAcceptedFrame_of_parse {s t : State} (hrej : ¬RejectingStatus s)
    (hplen : s.rxLen.val = (s.rx.read 2).toNat + 5) (hcrc : expectedCrc s s.rxLen.val = receivedCrc s s.rxLen.val)
    (hrx : t.rx = s.rx) (hlen : t.rxLen = s.rxLen) (hinfo : t.frameInfo = frameHeader s)
    (hpairs : t.frameCrc = frameCrcPairs s) : t.HoldsAcceptedFrame := by
  have hrec : receivedCrc t t.rxLen.val = receivedCrc s s.rxLen.val := by simp only [receivedCrc, hrx, hlen]
  constructor
  case length => rw [plen_of_frameInfo hinfo, hlen, hplen]
  case info => rw [hinfo, frameHeader, hrx]
  case status => rw [stat_of_frameInfo hinfo]; exact not_or.1 hrej
  case checksum => exact ⟨s.crcSwap, by rw [hrec, hrx, hlen]; exact hcrc⟩
  case crcs => rw [hrec, hpairs, frameCrcPairs, hcrc]

/-- Behind PAYLOAD_VALID there is an accepted frame again after every command (R27, R134). -/
theorem CommandEnd.accepted {i : Instr} {s t : State} (h : CommandEnd i s t)
    (hs : s.payloadValid = true → s.HoldsAcceptedFrame) (hv : t.payloadValid = true) : t.HoldsAcceptedFrame := by
  cases h
  case rxClear => exact nomatch (hv : false = true)
  case parseTooShort | parseRejected | parseWrongLength | parseMismatch => exact nomatch (hv : false = true)
  case parseAccepted hlen hrej hplen hcrc => exact holdsAcceptedFrame_of_parse hrej hplen hcrc rfl rfl rfl rfl
  case extracted d k _ hvalid _ =>
    exact (hs hvalid).congr (extractField_rx d k s) (extractField_rxLen d k s) (extractField_frameInfo d k s)
      (extractField_frameCrc d k s)
  all_goals exact (hs hv).congr rfl rfl rfl rfl

theorem execFrameReq_inv {s : State} (h : s.Inv) (addr : Byte) (start : Half) :
    (s.withTx (requestTx addr start s) (Fin.last Config.txCap)).withOk.Inv where
  rxCanonical := h.rxCanonical
  rxCells := h.rxCells
  txCanonical := requestTx_wf h.txCanonical addr start
  txCells := requestTx_below h.txCanonical h.txCells addr start
  txLength := .inr rfl
  descReserved := h.descReserved
  accepted := fun hv => (h.accepted hv).congr rfl rfl rfl rfl
  request := fun _ => holdsRequest_of_requestBytes fun _ ha => read_requestTx h.txCanonical addr start ha

/-- Every end of a command keeps the invariant: only FRAME.REQ writes TX, only RX.CLEAR and FRAME.PARSE touch what
stands behind PAYLOAD_VALID. -/
theorem CommandEnd.inv {i : Instr} {s t : State} (h : CommandEnd i s t) (hs : s.Inv) : t.Inv := by
  by_cases hi : ∃ addr start, i = .frameReq addr start
  · obtain ⟨addr, start, rfl⟩ := hi
    cases h
    exact execFrameReq_inv hs addr start
  · obtain ⟨htx, htxLen⟩ := h.tx_eq fun addr start he => hi ⟨addr, start, he⟩
    exact hs.of_rx (h.rx_eq ▸ hs.rxCanonical) (h.rx_eq ▸ hs.rxCells) htx htxLen h.desc_eq (h.accepted hs.accepted)

theorem command_inv {w : Word} {s t : State} (h : command w s = .next t) (hs : s.Inv) : t.Inv := by
  obtain ⟨i, -, hend⟩ | rfl := command_cases h
  · exact hend.inv hs
  · exact hs.congr rfl

/-! ### Every register write keeps the invariant -/

theorem rxPush_inv {s : State} (h : s.Inv) (v : Word) : (rxPush v s).Inv := by
  by_cases hroom : s.rxLen.val < Config.rxCap
  · rw [rxPush_of_room hroom]
    exact h.of_rx (Memory.write_wf h.rxCanonical _ _) (Memory.write_below h.rxCells hroom _) rfl rfl rfl
      fun hv => nomatch (hv : false = true)
  · rw [rxPush_of_full hroom]
    exact h.of_rx h.rxCanonical h.rxCells rfl rfl rfl fun hv => nomatch (hv : false = true)

/-- Masking a descriptor word clears its reserved bits (R39). -/
theorem reserved_of_masked (v : Word) : (v &&& descMask).extractLsb' 23 8 = 0#8 := by
  rw [BitVec.extractLsb'_and, show descMask.extractLsb' 23 8 = 0#8 by decide, BitVec.and_zero]

theorem writeDesc_inv {s : State} (h : s.Inv) (i : Fin 64) (v : Word) : (writeDesc i v s).Inv where
  rxCanonical := h.rxCanonical
  rxCells := h.rxCells
  txCanonical := h.txCanonical
  txCells := h.txCells
  txLength := h.txLength
  descReserved := by
    intro j
    simp only [writeDesc, State.withDesc_desc, Vector.getElem_set]
    split
    · exact reserved_of_masked v
    · exact h.descReserved j
  accepted := fun hv => (h.accepted hv).congr rfl rfl rfl rfl
  request := fun ht => (h.request ht).congr rfl

theorem writeReg_inv {s : State} (h : s.Inv) (r : HostReg) (v : Word) : (writeReg r v s).Inv := by
  cases r
  case rxPush => exact rxPush_inv h v
  case desc i => exact writeDesc_inv h i v
  all_goals exact h.congr rfl

/-- Settles O59: every effect of a step keeps the invariant, and a reset restores it. -/
theorem stepKeepsInvariant : Obligations.StepKeepsInvariant := by
  intro s t hs h
  cases stepEffect_of_step h with
  | wait hp => exact hs
  | read hp ha => exact hs.congr rfl
  | @write off v rest hp ha hr => exact writeReg_inv (s := s.withPending rest) (hs.congr rfl) _ v
  | command hp hc => exact command_inv hc (hs.congr rfl)
  | reset hp => exact afterReset_inv _
  | resetThenCommand hp hc => exact command_inv hc (afterReset_inv _)
  | commandThenReset hp hc => exact afterReset_inv _

end Sys2Proof.Machine
end

section
/-!
PROOF of O60. Two states that differ in hidden buffer bytes only: what does not look at the buffers commutes with
replacing them, what looks at them reads below the lengths, and what writes them writes the same bytes to both.
-/

namespace Sys2Proof.Machine

/-! ### Replacing the buffers -/

/-- Both buffers replaced, every other field kept: how the second of two states that look alike is made. -/
def State.withBuffers (s : State) (rx tx : Memory) : State := { s with rx := rx, tx := tx }

theorem State.SameVisible.eq_withBuffers {s t : State} (h : s.SameVisible t) : s.withBuffers t.rx t.tx = t := h.others

/-- What does not depend on the buffers is the same of both states. -/
theorem State.SameVisible.view {α : Sort*} {s t : State} (h : s.SameVisible t) (f : State → α)
    (hf : ∀ u rx tx, f (u.withBuffers rx tx) = f u := by intros; rfl) : f s = f t := by
  rw [← h.eq_withBuffers, hf]

theorem State.SameVisible.rxLen_eq {s t : State} (h : s.SameVisible t) : s.rxLen = t.rxLen :=
  h.view State.rxLen

theorem State.SameVisible.txLen_eq {s t : State} (h : s.SameVisible t) : s.txLen = t.txLen :=
  h.view State.txLen

theorem State.SameVisible.payloadValid_eq {s t : State} (h : s.SameVisible t) : s.payloadValid = t.payloadValid :=
  h.view State.payloadValid

/-- An update that neither reads nor writes the buffers and lengthens none keeps what is visible alike. -/
theorem State.SameVisible.map {s t : State} (h : s.SameVisible t) (f : State → State)
    (hf : ∀ u rx tx, f (u.withBuffers rx tx) = (f u).withBuffers rx tx := by intros; rfl)
    (hrxLen : (f s).rxLen ≤ s.rxLen := by exact le_rfl) (htxLen : (f s).txLen ≤ s.txLen := by exact le_rfl) :
    (f s).SameVisible (f t) := by
  have hs : f s = (f s).withBuffers s.rx s.tx := hf s s.rx s.tx
  have ht : f t = (f s).withBuffers t.rx t.tx := by rw [← hf, h.eq_withBuffers]
  have hsrx : (f s).rx = s.rx := (congrArg State.rx hs :)
  have hstx : (f s).tx = s.tx := (congrArg State.tx hs :)
  have htrx : (f t).rx = t.rx := (congrArg State.rx ht :)
  have httx : (f t).tx = t.tx := (congrArg State.tx ht :)
  constructor
  case others => rw [htrx, httx]; exact ht.symm
  case rxBytes =>
    intro k hk
    rw [hsrx, htrx]
    exact h.rxBytes k (Nat.lt_of_lt_of_le hk hrxLen)
  case txBytes =>
    intro k hk
    rw [hstx, httx]
    exact h.txBytes k (Nat.lt_of_lt_of_le hk htxLen)

/-! ### Answers -/

/-- Two answers a host cannot tell apart: next states that look alike, or the same refusal. -/
def SameAnswer (r r' : Result) : Prop :=
  (∃ s t, r = .next s ∧ r' = .next t ∧ s.SameVisible t) ∨ ∃ e, r = .refused e ∧ r' = .refused e

theorem SameAnswer.next {s t : State} (h : s.SameVisible t) : SameAnswer (.next s) (.next t) :=
  .inl ⟨s, t, rfl, rfl, h⟩

theorem SameAnswer.refused (e : Refusal) : SameAnswer (.refused e) (.refused e) := .inr ⟨e, rfl, rfl⟩

theorem SameAnswer.complete {s t : State} (h : s.SameVisible t) : SameAnswer (complete s) (complete t) :=
  .next (h.map State.withOk)

theorem SameAnswer.raise {s t : State} (h : s.SameVisible t) (e : CmdError) :
    SameAnswer (raise e s) (raise e t) :=
  .next (h.map fun u => u.withError e)

/-! ### The CRC engine -/

theorem execCrcBuf_sameAnswer {s t : State} (h : s.SameVisible t) (buf : Buffer) (n : Nat) :
    SameAnswer (execCrcBuf buf n s) (execCrcBuf buf n t) := by
  have hlen : bufferLength buf s = bufferLength buf t :=
    h.view (bufferLength buf) (hf := fun _ _ _ => by cases buf <;> rfl)
  have hacc : s.acc = t.acc := h.view State.acc
  unfold execCrcBuf
  rw [← hlen, ← hacc]
  split
  · exact .raise h _
  · next hn =>
    have hbytes : (bufferBytes buf s).slice 0 n = (bufferBytes buf t).slice 0 n := by
      apply Memory.slice_congr
      intro j hj
      have hlt : 0 + j < bufferLength buf s := by omega
      cases buf with
      | rx => exact h.rxBytes _ hlt
      | tx => exact h.txBytes _ hlt
    rw [← hbytes]
    exact .complete (h.map fun u => u.withAcc _)

theorem execCrcVerify_sameAnswer {s t : State} (h : s.SameVisible t) (expect : Half) :
    SameAnswer (execCrcVerify expect s) (execCrcVerify expect t) := by
  have hacc : s.crcHi ++ s.crcLo = t.crcHi ++ t.crcLo := h.view fun u => u.crcHi ++ u.crcLo
  unfold execCrcVerify
  rw [← hacc]
  split
  · exact .complete (h.map fun u => u.withCrcMatch true)
  · exact .raise (h.map fun u => u.withCrcMatch false) _

/-! ### FRAME.PARSE reads below RX_LEN -/

theorem State.SameVisible.receivedCrc_eq {s t : State} (h : s.SameVisible t) (hlen : 5 ≤ s.rxLen.val) :
    receivedCrc s s.rxLen.val = receivedCrc t t.rxLen.val := by
  rw [receivedCrc, receivedCrc, ← h.rxLen_eq, h.rxBytes _ (by omega), h.rxBytes _ (by omega)]

theorem State.SameVisible.expectedCrc_eq {s t : State} (h : s.SameVisible t) (hlen : 5 ≤ s.rxLen.val) :
    expectedCrc s s.rxLen.val = expectedCrc t t.rxLen.val := by
  have hbytes : s.rx.slice 0 (s.rxLen.val - 2) = t.rx.slice 0 (s.rxLen.val - 2) :=
    Memory.slice_congr fun j hj => h.rxBytes _ (by omega)
  rw [expectedCrc, expectedCrc, ← h.rxLen_eq, hbytes, h.view State.crcSwap]

theorem parseChecksum_sameAnswer {s t : State} (h : s.SameVisible t) (hlen : 5 ≤ s.rxLen.val) :
    SameAnswer (parseChecksum s) (parseChecksum t) := by
  unfold parseChecksum
  simp only [← h.receivedCrc_eq hlen, ← h.expectedCrc_eq hlen]
  split
  · exact .raise (h.map fun u => u.withFrameCrc _) _
  · exact .complete (h.map fun u => (u.withFrameCrc _).withPayloadValid true)

theorem parseHeader_sameAnswer {s t : State} (h : s.SameVisible t) (hlen : 5 ≤ s.rxLen.val) :
    SameAnswer (parseHeader s) (parseHeader t) := by
  unfold parseHeader
  simp only [← h.rxBytes 0 (by omega), ← h.rxBytes 1 (by omega), ← h.rxBytes 2 (by omega), ← h.rxLen_eq]
  split
  · exact .raise (h.map fun u => (u.withFrameInfo _).withDevErr _) _
  · split
    · exact .raise (h.map fun u => u.withFrameInfo _) _
    · exact parseChecksum_sameAnswer (h.map fun u => u.withFrameInfo _) hlen

theorem execFrameParse_sameAnswer {s t : State} (h : s.SameVisible t) :
    SameAnswer (execFrameParse s) (execFrameParse t) := by
  have hinvalid := h.map fun u => u.withPayloadValid false
  obtain hlen | hlen := Nat.lt_or_ge s.rxLen.val 5
  · rw [execFrameParse_of_short hlen, execFrameParse_of_short (h.rxLen_eq ▸ hlen)]
    exact .raise hinvalid _
  · rw [execFrameParse_of_long hlen, execFrameParse_of_long (h.rxLen_eq ▸ hlen)]
    exact parseHeader_sameAnswer hinvalid hlen

/-! ### FRAME.REQ writes the same bytes -/

theorem execFrameReq_sameAnswer {s t : State} (h : s.SameVisible t) (hs : s.tx.wf = true) (ht : t.tx.wf = true)
    (addr : Byte) (start : Half) : SameAnswer (execFrameReq addr start s) (execFrameReq addr start t) := by
  have hbytes : requestBytes s.crcSwap addr start (s.arg0.extractLsb' 0 16) =
      requestBytes t.crcSwap addr start (t.arg0.extractLsb' 0 16) :=
    h.view fun u => requestBytes u.crcSwap addr start (u.arg0.extractLsb' 0 16)
  refine .complete (s := s.withTx (requestTx addr start s) _) (t := t.withTx (requestTx addr start t) _) ?_
  constructor
  case others => exact congrArg (fun u : State => u.withTx (requestTx addr start t) (Fin.last _)) h.eq_withBuffers
  case rxBytes => exact h.rxBytes
  case txBytes =>
    intro k hk
    exact (read_requestTx hs addr start hk).trans (hbytes ▸ (read_requestTx ht addr start hk).symm)

/-! ### EXTRACT reads below PLEN -/

theorem trimmedLength_congr {rx rx' : Memory} {o n : Nat}
    (h : ∀ j < n, payloadByte rx (o + j) = payloadByte rx' (o + j)) :
    trimmedLength rx o n = trimmedLength rx' o n := by
  induction n with
  | zero => rfl
  | succ n ih => rw [trimmedLength, trimmedLength, h n (by omega), ih fun j hj => h j (by omega)]

theorem payloadBytes_congr {rx rx' : Memory} {o n : Nat}
    (h : ∀ j < n, payloadByte rx (o + j) = payloadByte rx' (o + j)) :
    payloadBytes rx o n = payloadBytes rx' o n :=
  List.map_congr_left fun j hj => h j (List.mem_range.1 hj)

/-- The result of EXTRACT for an integer kind (R163). -/
theorem extractField_of_integer {k : FieldKind} (hk : k ≠ .str) (d : Word) (s : State) :
    extractField d k s =
      s.withInteger (BitVec.ofInt 32 (rawInteger k (payloadBytes s.rx (descOffset d) (fieldWidth d k))))
        (BitVec.ofInt 64 (scaled s.round s.tempUnit
          (rawInteger k (payloadBytes s.rx (descOffset d) (fieldWidth d k))) (descScale d) (descTemp d))) := by
  cases k
  case str => exact absurd rfl hk
  all_goals rfl

theorem extractField_sameVisible {s t : State} (h : s.SameVisible t) (d : Word) (k : FieldKind)
    (hbytes : ∀ j < fieldWidth d k, payloadByte s.rx (descOffset d + j) = payloadByte t.rx (descOffset d + j)) :
    (extractField d k s).SameVisible (extractField d k t) := by
  by_cases hk : k = .str
  · subst hk
    have hlen : trimmedLength s.rx (descOffset d) (descWidth d) = trimmedLength t.rx (descOffset d) (descWidth d) :=
      trimmedLength_congr hbytes
    simp only [extractField, ← hlen]
    exact h.map fun u => u.withStrLen _
  · rw [extractField_of_integer hk, extractField_of_integer hk, ← payloadBytes_congr hbytes]
    generalize rawInteger k (payloadBytes s.rx (descOffset d) (fieldWidth d k)) = raw
    exact h.map fun u => u.withInteger (BitVec.ofInt 32 raw)
      (BitVec.ofInt 64 (scaled u.round u.tempUnit raw (descScale d) (descTemp d)))

/-- EXTRACT reads the payload only, and behind PAYLOAD_VALID the payload lies below RX_LEN (R134, R165). -/
theorem execExtract_sameAnswer {s t : State} (h : s.SameVisible t) (hs : s.Inv) (idx : Nat) :
    SameAnswer (execExtract idx s) (execExtract idx t) := by
  have hsel : selectDescriptor s idx = selectDescriptor t idx :=
    h.view fun u => selectDescriptor u idx
  have hplen : s.plen = t.plen := h.view State.plen
  cases hd : selectDescriptor s idx with
  | none =>
    rw [execExtract_of_none hd, execExtract_of_none (hsel ▸ hd)]
    exact .raise h _
  | some p =>
    rw [execExtract_of_some hd, execExtract_of_some (hsel ▸ hd), ← h.payloadValid_eq, ← hplen]
    split
    · exact .raise h _
    · next hv =>
      split
      · exact .raise h _
      · next hr =>
        have hframe := hs.accepted (Bool.not_eq_false _ ▸ hv)
        refine .complete (extractField_sameVisible h p.1 p.2 fun j hj => h.rxBytes _ ?_)
        have := hframe.length
        omega

/-! ### Commands -/

theorem exec_sameAnswer {s t : State} (h : s.SameVisible t) (hs : s.Inv) (ht : t.Inv) (i : Instr) :
    SameAnswer (exec i s) (exec i t) := by
  cases i with
  | nop => exact .complete h
  | crcInit => exact .complete (h.map fun u => u.withAcc crcSeed)
  | crcByte data =>
    exact .complete (h.map fun u => u.withAcc (crcStepTbl u.crcHi u.crcLo data))
  | crcPoly data =>
    exact .complete (h.map fun u => u.withAcc ((crcStepPoly (u.crcLo ++ u.crcHi) data).extractLsb' 0 8,
      (crcStepPoly (u.crcLo ++ u.crcHi) data).extractLsb' 8 8))
  | crcBuf buf n => exact execCrcBuf_sameAnswer h buf n
  | crcVerify expect => exact execCrcVerify_sameAnswer h expect
  | rxClear =>
    exact .complete (h.map (hrxLen := Fin.zero_le _) fun u => (u.withRx u.rx 0).withPayloadValid false)
  | frameParse => exact execFrameParse_sameAnswer h
  | frameReq addr start => exact execFrameReq_sameAnswer h hs.txCanonical ht.txCanonical addr start
  | extract idx => exact execExtract_sameAnswer h hs idx
  | decFlags src =>
    exact .complete (h.map (hf := fun _ _ _ => by cases src <;> rfl)
      fun u => u.withFlags (flagVector ((sourceWord src u).extractLsb' 0 16)))
  | decAlarm src idx =>
    exact .complete (h.map (hf := fun _ _ _ => by cases src <;> rfl)
      fun u => u.withLevel (alarmField (sourceWord src u) idx))

theorem command_sameAnswer {s t : State} (h : s.SameVisible t) (hs : s.Inv) (ht : t.Inv) (w : Word) :
    SameAnswer (command w s) (command w t) := by
  cases hd : decode w with
  | ok i =>
    rw [command_of_ok hd, command_of_ok hd]
    exact exec_sameAnswer h hs ht i
  | error e =>
    rw [command_of_error hd, command_of_error hd]
    exact .raise h .illegalCommand

/-! ### Host accesses -/

/-- A window shows the bytes below the length only (R40, R41). -/
theorem windowWord_congr {m n : Memory} {len : Nat} (h : ∀ k < len, m.read k = n.read k) (k : Nat) :
    windowWord m len k = windowWord n len k := by
  have hbyte : ∀ j, windowByte m len j = windowByte n len j := by
    intro j
    unfold windowByte
    split
    · exact h j ‹_›
    · rfl
  simp only [windowWord, hbyte]

/-- Every register reads alike. -/
theorem readReg_sameVisible {s t : State} (h : s.SameVisible t) (r : HostReg) : readReg s r = readReg t r := by
  cases r
  case rxWin k => exact (windowWord_congr h.rxBytes k.val).trans (h.rxLen_eq ▸ rfl)
  case txWin k => exact (windowWord_congr h.txBytes k.val).trans (h.txLen_eq ▸ rfl)
  all_goals exact h.view fun u => readReg u _

theorem hostRead_sameVisible {s t : State} (h : s.SameVisible t) (r : HostReg) :
    (hostRead r s).SameVisible (hostRead r t) := by
  have hreads : s.reads ++ [readReg s r] = t.reads ++ [readReg t r] := by
    rw [readReg_sameVisible h r, h.view State.reads]
  rw [hostRead, hostRead, ← hreads]
  exact h.map fun u => u.withReads _

/-- Appending one byte makes it visible, the same in both states. -/
theorem appendRx_sameVisible {s t : State} (h : s.SameVisible t) (hs : s.rx.wf = true) (ht : t.rx.wf = true)
    (b : Byte) {n : Fin (Config.rxCap + 1)} (hn : n.val = s.rxLen.val + 1) :
    (s.withRx (s.rx.write s.rxLen.val b) n).SameVisible (t.withRx (t.rx.write s.rxLen.val b) n) := by
  constructor
  case others => exact congrArg (fun u : State => u.withRx (t.rx.write s.rxLen.val b) n) h.eq_withBuffers
  case rxBytes =>
    intro k hk
    simp only [State.withRx_rx, State.withRx_rxLen, hn, Memory.read_write hs, Memory.read_write ht] at hk ⊢
    split
    · rfl
    · exact h.rxBytes k (by omega)
  case txBytes => exact h.txBytes

theorem rxPush_sameVisible {s t : State} (h : s.SameVisible t) (hs : s.rx.wf = true) (ht : t.rx.wf = true)
    (v : Word) : (rxPush v s).SameVisible (rxPush v t) := by
  have hinvalid := h.map fun u => u.withPayloadValid false
  by_cases hroom : s.rxLen.val < Config.rxCap
  · rw [rxPush_of_room hroom, rxPush_of_room (h.rxLen_eq ▸ hroom)]
    simp only [← h.rxLen_eq]
    exact appendRx_sameVisible hinvalid hs ht _ rfl
  · rw [rxPush_of_full hroom, rxPush_of_full (h.rxLen_eq ▸ hroom)]
    exact hinvalid.map State.withRxOvf

theorem writeReg_sameVisible {s t : State} (h : s.SameVisible t) (hs : s.Inv) (ht : t.Inv) (r : HostReg) (v : Word) :
    (writeReg r v s).SameVisible (writeReg r v t) := by
  cases r
  case rxPush => exact rxPush_sameVisible h hs.rxCanonical ht.rxCanonical v
  all_goals exact h.map (writeReg _ v)

theorem hostWrite_sameAnswer {s t : State} (h : s.SameVisible t) (hs : s.Inv) (ht : t.Inv) (r : HostReg) (v : Word) :
    SameAnswer (hostWrite r v s) (hostWrite r v t) := by
  by_cases hr : r = .cmd
  · subst hr
    exact command_sameAnswer h hs ht v
  · rw [hostWrite_of_ne_cmd hr, hostWrite_of_ne_cmd hr]
    exact .next (writeReg_sameVisible h hs ht r v)

/-! ### Resets -/

theorem State.SameVisible.refl (s : State) : s.SameVisible s := ⟨rfl, fun _ _ => rfl, fun _ _ => rfl⟩

/-- A reset leaves nothing hidden. -/
theorem State.SameVisible.afterReset_eq {s t : State} (h : s.SameVisible t) : s.afterReset = t.afterReset :=
  h.view State.afterReset

theorem SameAnswer.afterReset {s t : State} (h : s.SameVisible t) :
    SameAnswer (.next s.afterReset) (.next t.afterReset) :=
  .next (h.afterReset_eq ▸ .refl _)

theorem resetWithCommand_sameAnswer {s t : State} (h : s.SameVisible t) (hs : s.Inv) (ht : t.Inv) (w : Word) :
    SameAnswer (resetWithCommand w s) (resetWithCommand w t) := by
  have hchoices : s.choices = t.choices := h.view State.choices
  have hnext := h.map fun u => u.withChoices (s.choices + 1)
  simp only [resetWithCommand, ← hchoices]
  split
  · rw [← hnext.afterReset_eq]
    exact command_sameAnswer (.refl _) (afterReset_inv _) (afterReset_inv _) w
  · obtain ⟨s', t', hs', ht', h'⟩ | ⟨e, hs', ht'⟩ := command_sameAnswer hnext (hs.congr rfl) (ht.congr rfl) w
    · simp only [hs', ht']
      exact .afterReset h'
    · simp only [hs', ht']
      exact .refused e

/-! ### Steps -/

theorem performEvent_sameAnswer {s t : State} (h : s.SameVisible t) (hs : s.Inv) (ht : t.Inv) (e : BusEvent) :
    SameAnswer (performEvent e s) (performEvent e t) := by
  cases e with
  | read width off =>
    simp only [performEvent]
    split
    · exact .next (hostRead_sameVisible h _)
    · exact .refused _
  | write width off v =>
    simp only [performEvent]
    split
    · exact hostWrite_sameAnswer h hs ht _ v
    · exact .refused _
  | reset => exact .afterReset h
  | resetDuringCommand w => exact resetWithCommand_sameAnswer h hs ht w
  | busError => exact .refused _

theorem step_sameAnswer {s t : State} (h : s.SameVisible t) (hs : s.Inv) (ht : t.Inv) :
    SameAnswer (step s) (step t) := by
  have hpending : s.pending = t.pending := h.view State.pending
  cases hp : s.pending with
  | nil =>
    simp only [step, hp, ← hpending]
    exact .next h
  | cons e rest =>
    rw [step_cons hp, step_cons (hpending ▸ hp)]
    exact performEvent_sameAnswer (h.map fun u => u.withPending rest) (hs.congr rfl) (ht.congr rfl) e

/-- Settles O60: the host reads the same now, and a step answers alike. -/
theorem hiddenBytesAreUnobservable : Obligations.HiddenBytesAreUnobservable := by
  intro s t hs ht h
  refine ⟨?_, step_sameAnswer h hs ht⟩
  simp only [State.observation, readReg_sameVisible h, h.view State.reads]

end Sys2Proof.Machine
end

section
/-!
PROOFS of O6, O38, O40 to O47 and O49. The host register space: the map, what each register reads as, and what a
write of each does.
-/

namespace Sys2Proof.Machine

/-! ### The map and the events -/

/-- Settles O38: both directions of the map, said by word index. -/
theorem registerMapMatchesOffsets : Obligations.RegisterMapMatchesOffsets := by
  refine ⟨fun r off h => registerOf_of_offset h, fun off ha => ?_⟩
  have := off.isLt
  rw [registerOf, registerAt_eq_unmapped]
  omega

/-- Settles O6: the write to CMD is performed whole in the step that consumes it. -/
theorem stepRunsDecodedCommand : Obligations.StepRunsDecodedCommand := by
  intro s rest w hp
  have hstep : step s = command w (s.withPending rest) :=
    (step_write hp rfl).trans (hostWrite_cmd w (s.withPending rest))
  exact ⟨fun i hi => hstep.trans (command_of_ok hi _), fun e he => hstep.trans (command_of_error he _)⟩

/-! ### Reads -/

/-- Zero extension said as an append, as the rules write the bits that read 0. -/
theorem zeroExtend_eq_zero_append {v : Nat} (k : Nat) (x : BitVec v) : x.zeroExtend (k + v) = 0#k ++ x := by
  rw [BitVec.zeroExtend, BitVec.setWidth_eq_append (by omega)]
  ext i hi
  simp [BitVec.getElem_append]

/-- Two bytes zero-extended, highest first. -/
theorem zeroExtend_bytes (a b : Byte) : (a ++ b).zeroExtend 32 = 0#16 ++ a ++ b := by
  rw [BitVec.append_assoc]
  exact zeroExtend_eq_zero_append 16 (a ++ b)

/-- Settles O40: each register is its field under the bits that read 0. -/
theorem readsReturnRegisterFields : Obligations.ReadsReturnRegisterFields := by
  intro s
  have hrxLen : s.rxLen.val % 2 ^ 32 = s.rxLen.val :=
    Nat.mod_eq_of_lt (Nat.lt_trans s.rxLen.isLt (by decide))
  have htxLen : s.txLen.val % 2 ^ 32 = s.txLen.val :=
    Nat.mod_eq_of_lt (Nat.lt_trans s.txLen.isLt (by decide))
  have hvalue : readReg s .valueHi ++ readReg s .valueLo = s.value :=
    (BitVec.extractLsb'_append_extractLsb'_eq_extractLsb' rfl).trans BitVec.extractLsb'_eq_self
  exact ⟨rfl, rfl, rfl, rfl, zeroExtend_bytes _ _, zeroExtend_bytes _ _, zeroExtend_eq_zero_append 24 _,
    zeroExtend_eq_zero_append 8 _, rfl, hrxLen, rfl, hvalue, zeroExtend_eq_zero_append 24 _,
    zeroExtend_eq_zero_append 16 _, zeroExtend_eq_zero_append 30 _, htxLen⟩

/-! ### STATUS, from its lowest field to its highest -/

theorem statusWord_lastErr (s : State) : s.statusWord.extractLsb' 0 4 = s.lastErrCode :=
  BitVec.extractLsb'_append_eq_right

theorem statusWord_bits (s : State) :
    s.statusWord.getLsbD 4 = s.payloadValid ∧ s.statusWord.getLsbD 5 = s.crcMatch ∧
      s.statusWord.getLsbD 8 = s.errSeen ∧ s.statusWord.getLsbD 9 = s.rxOvf := by
  rw [State.statusWord]
  refine ⟨?_, ?_, ?_, ?_⟩
  all_goals
    repeat rw [BitVec.getLsbD_append]
    simp

theorem statusWord_zero_7_6 (s : State) : s.statusWord.extractLsb' 6 2 = 0#2 := by
  rw [State.statusWord]
  iterate 3 rw [BitVec.extractLsb'_append_eq_of_le (by decide)]
  exact BitVec.extractLsb'_append_eq_right

theorem statusWord_zero_31_10 (s : State) : s.statusWord.extractLsb' 10 22 = 0#22 := by
  rw [State.statusWord]
  iterate 5 rw [BitVec.extractLsb'_append_eq_of_le (by decide)]
  exact BitVec.extractLsb'_append_eq_left

/-- Settles O41: the fields of STATUS, LAST_ERR by the code of every error. -/
theorem statusFieldsStandWhereTheySay : Obligations.StatusFieldsStandWhereTheySay := by
  intro s
  obtain ⟨hvalid, hmatch, hseen, hovf⟩ := statusWord_bits s
  refine ⟨(statusWord_lastErr s).trans ?_, hvalid, hmatch, statusWord_zero_7_6 s, hseen, hovf,
    statusWord_zero_31_10 s⟩
  unfold State.lastErrCode
  cases s.lastErr with
  | none => rfl
  | some e => cases e <;> rfl

/-! ### Windows -/

/-- Settles O47: a window word is its four bytes, each masked at the length. -/
theorem windowsPackLittleEndianAndMask : Obligations.WindowsPackLittleEndianAndMask :=
  ⟨fun _ _ _ hj => windowWord_byte _ _ _ hj, fun _ _ _ hj => windowWord_byte _ _ _ hj⟩

/-- A window of an empty buffer reads 0. -/
theorem windowWord_zero (m : Memory) (k : Nat) : windowWord m 0 k = 0#32 := by
  simp [windowWord, windowByte]

/-- No register reads the host's list, what it has read, or the count of choices. -/
theorem readReg_afterReset (s : State) (r : HostReg) : readReg s.afterReset r = readReg State.reset r := by
  cases r <;> rfl

theorem readReg_reset {r : HostReg} (hid : r ≠ .id) (hval : r ≠ .crcVal) (hstd : r ≠ .crcStd) :
    readReg State.reset r = 0#32 := by
  cases r
  case id => exact absurd rfl hid
  case crcVal => exact absurd rfl hval
  case crcStd => exact absurd rfl hstd
  case desc i => simp [readReg, State.reset]
  case rxWin k => exact windowWord_zero _ _
  case txWin k => exact windowWord_zero _ _
  all_goals decide

/-- Settles O49: the reads after a reset do not depend on the state before. -/
theorem resetLeavesResetValues : Obligations.ResetLeavesResetValues := by
  intro s rest hp
  have hread := readReg_afterReset (s.withPending rest)
  exact ⟨(s.withPending rest).afterReset, step_cons hp, rfl, hread .id, (hread .crcVal).trans (by decide),
    (hread .crcStd).trans (by decide), fun r hid hval hstd => (hread r).trans (readReg_reset hid hval hstd)⟩

/-! ### Writes -/

/-- Settles O42: a written 1 clears, a written 0 keeps. -/
theorem statusWriteClearsOnlyStickyBits : Obligations.StatusWriteClearsOnlyStickyBits := by
  intro s rest v hp
  have hclear : ∀ b w : Bool, (b && !w) = if w then false else b := by decide
  rw [step_writeReg hp rfl (registerOf_of_offset (r := .status) rfl) (by decide)]
  simp only [writeReg, State.clearSticky, hclear]
  rfl

/-! ### CTRL -/

/-- TEMP_UNIT takes every legal code and keeps its own on 3 (R22). -/
theorem code_afterWrite (u : TempUnit) (c : BitVec 2) :
    (u.afterWrite c).code = if c = 3#2 then u.code else c := by
  cases u <;> revert c <;> decide

theorem ctrlWord_unit (s : State) : s.ctrlWord.extractLsb' 0 2 = s.tempUnit.code :=
  BitVec.extractLsb'_append_eq_right

theorem ctrlWord_round_crcSwap (s : State) :
    s.ctrlWord.extractLsb' 2 2 = BitVec.ofBool s.crcSwap ++ s.round.bit := by
  rw [State.ctrlWord, BitVec.extractLsb'_append_eq_of_le (by decide), BitVec.append_assoc]
  exact BitVec.extractLsb'_append_eq_right

theorem ctrlWord_zero_31_4 (s : State) : s.ctrlWord.extractLsb' 4 28 = 0#28 := by
  rw [State.ctrlWord]
  iterate 2 rw [BitVec.extractLsb'_append_eq_of_le (by decide)]
  exact BitVec.extractLsb'_append_eq_left

/-- ROUND and CRC_SWAP after a write are the word's bits 2 and 3 (R22). -/
theorem ctrlWord_writeCtrl_round_crcSwap (s : State) (v : Word) :
    (s.writeCtrl v).ctrlWord.extractLsb' 2 2 = v.extractLsb' 2 2 := by
  have hround : (s.writeCtrl v).round.bit = BitVec.ofBool (v.getLsbD 2) := by
    rw [State.writeCtrl_round]
    cases v.getLsbD 2 <;> rfl
  rw [ctrlWord_round_crcSwap, hround, State.writeCtrl_crcSwap]
  apply BitVec.eq_of_getLsbD_eq
  intro i hi
  obtain rfl | rfl : i = 0 ∨ i = 1 := by omega
  all_goals
    rw [BitVec.getLsbD_append]
    simp

/-- Settles O43: the fields of CTRL after the write, one by one. -/
theorem ctrlWriteKeepsLegalUnit : Obligations.CtrlWriteKeepsLegalUnit := by
  intro s rest v hp
  refine ⟨(s.withPending rest).writeCtrl v,
    step_writeReg hp rfl (registerOf_of_offset (r := .ctrl) rfl) (by decide), ?_, ?_, ?_, ?_, ?_,
    ctrlWord_writeCtrl_round_crcSwap _ v, ctrlWord_zero_31_4 _, ?_, rfl, rfl⟩
  · simp only [readReg, ctrlWord_unit, State.writeCtrl_tempUnit, code_afterWrite, State.withPending_tempUnit]
  iterate 4
    · intro hc
      simp [TempUnit.afterWrite, hc]
  · simp

/-! ### DESC -/

theorem offset_desc_toNat (i : Fin 64) : (BitVec.ofNat 12 (0x100 + 4 * i.val)).toNat = 0x100 + 4 * i.val := by
  rw [BitVec.toNat_ofNat, Nat.mod_eq_of_lt (by omega)]

/-- Settles O44: the masked word at its index, every other index as before. -/
theorem descWriteMasksReservedBits : Obligations.DescWriteMasksReservedBits := by
  refine ⟨fun s rest v i hp => ?_, fun i s t h => (commandEnd_of_exec h).desc_eq, by decide⟩
  have hstep := step_writeReg hp (by rw [offset_desc_toNat]; omega) (registerOf_of_offset (r := .desc i) rfl)
    (by simp)
  refine ⟨_, hstep, ?_, fun j hj => ?_, rfl⟩
  · simp [readReg, writeReg, writeDesc]
  · have hne : i.val ≠ j.val := fun h => hj (Fin.ext h.symm)
    simp [readReg, writeReg, writeDesc, hne]

/-! ### Writes that are ignored -/

/-- The registers that a write other than a command changes (R20). -/
def HostReg.writable : HostReg → Bool
  | .ctrl | .status | .arg0 | .rxPush | .desc _ => true
  | _ => false

theorem writeReg_of_not_writable {r : HostReg} (h : r.writable = false) (v : Word) (s : State) :
    writeReg r v s = s := by
  cases r
  case ctrl | status | arg0 | rxPush | desc => exact nomatch h
  all_goals rfl

/-- Settles O45: the writable registers are those at the listed offsets. -/
theorem plainWritesStoreOrAreIgnored : Obligations.PlainWritesStoreOrAreIgnored := by
  intro s rest v off hp
  constructor
  · rintro rfl
    exact step_writeReg hp rfl (registerOf_of_offset (r := .arg0) rfl) (by decide)
  · intro ha hlist hdesc
    have hcmd : registerOf off ≠ .cmd := by
      intro hr
      obtain rfl := offset_of_registerOf_eq ha hr rfl
      exact hlist (by decide)
    have hw : (registerOf off).writable = false := by
      cases hr : registerOf off
      case ctrl | status | arg0 | rxPush =>
        obtain rfl := offset_of_registerOf_eq ha hr rfl
        exact absurd (by decide) hlist
      case desc i =>
        obtain rfl := offset_of_registerOf_eq ha hr rfl
        rw [offset_desc_toNat] at hdesc
        omega
      all_goals rfl
    rw [step_writeReg hp ha rfl hcmd, writeReg_of_not_writable hw]
    rfl

/-- Settles O46: an unmapped word reads 0 and is not writable. -/
theorem unmappedOffsetsAreInert : Obligations.UnmappedOffsetsAreInert := by
  intro s rest v off ha hrange
  have hr : registerOf off = .unmapped := (registerMapMatchesOffsets.2 off ha).2 hrange
  constructor
  · intro hp
    rw [step_read hp ha, hr]
    rfl
  · exact fun hp => step_writeReg hp ha hr (by decide)

end Sys2Proof.Machine
end

section
/-!
PROOFS of O39, O48 and O57. When a step exists: what the block performs always answers a next state, so only an access
outside the interface and a bus error are refused.
-/

namespace Sys2Proof.Machine

/-! ### Reads and refused accesses -/

/-- Settles O39: a read appends the register's value, and no register reads the list of pending events. -/
theorem hostReadHasNoSideEffect : Obligations.HostReadHasNoSideEffect := by
  intro s rest off hp ha
  have hvalue : readReg (s.withPending rest) (registerOf off) = readReg s (registerOf off) := by
    cases registerOf off <;> rfl
  rw [step_read hp ha, hostRead, hvalue]
  rfl

theorem inInterface_eq_false {width : Nat} {off : BitVec 12} :
    inInterface width off = false ↔ width ≠ 4 ∨ off.toNat % 4 ≠ 0 := by
  rw [← Bool.not_eq_true, inInterface_eq_true, not_and_or]

/-- Settles O48: the width and the alignment are looked at before the register. -/
theorem otherAccessesAreRefused : Obligations.OtherAccessesAreRefused := by
  intro s rest width off v h
  have hin : inInterface width off = false := inInterface_eq_false.2 h
  constructor
  · intro hp
    simp [step_cons hp, performEvent, hin]
  · intro hp
    simp [step_cons hp, performEvent, hin]

/-! ### What answers a next state -/

theorem command_answers (w : Word) (s : State) : ∃ t, command w s = .next t := by
  cases hd : decode w with
  | ok i =>
    obtain ⟨t, ht, -⟩ := exec_end i s
    exact ⟨t, (command_of_ok hd s).trans ht⟩
  | error e => exact ⟨_, command_of_error hd s⟩

theorem hostWrite_answers (r : HostReg) (v : Word) (s : State) : ∃ t, hostWrite r v s = .next t := by
  by_cases hr : r = .cmd
  · exact hr ▸ hostWrite_cmd v s ▸ command_answers v s
  · exact ⟨_, hostWrite_of_ne_cmd hr v s⟩

/-- Whichever of the two comes first, the command completes and the reset does. -/
theorem resetWithCommand_answers (w : Word) (s : State) : ∃ t, resetWithCommand w s = .next t := by
  unfold resetWithCommand
  split
  · exact command_answers w _
  · obtain ⟨t, ht⟩ := command_answers w (s.withChoices (s.choices + 1))
    exact ⟨t.afterReset, by simp only [ht]⟩

/-- Settles O57: event by event, an access being inside the interface or refused. -/
theorem stepsExistInsideTheInterface : Obligations.StepsExistInsideTheInterface := by
  intro s
  cases hp : s.pending with
  | nil => exact .inl ⟨s, by simp only [step, hp]⟩
  | cons e rest =>
    cases e with
    | read width off =>
      cases hin : inInterface width off with
      | true =>
        obtain ⟨rfl, ha⟩ := inInterface_eq_true.1 hin
        exact .inl ⟨_, step_read hp ha⟩
      | false =>
        have hout := inInterface_eq_false.1 hin
        have hstep := (otherAccessesAreRefused s rest width off 0#32 hout).1 hp
        exact .inr (.inl ⟨hstep, width, off, rest, hout, .inl rfl⟩)
    | write width off v =>
      cases hin : inInterface width off with
      | true =>
        obtain ⟨rfl, ha⟩ := inInterface_eq_true.1 hin
        exact .inl (step_write hp ha ▸ hostWrite_answers _ v _)
      | false =>
        have hout := inInterface_eq_false.1 hin
        have hstep := (otherAccessesAreRefused s rest width off v hout).2 hp
        exact .inr (.inl ⟨hstep, width, off, rest, hout, .inr ⟨v, rfl⟩⟩)
    | reset => exact .inl ⟨_, step_cons hp⟩
    | resetDuringCommand w => exact .inl (step_cons hp ▸ resetWithCommand_answers w _)
    | busError => exact .inr (.inr ⟨step_cons hp, rest, rfl⟩)

end Sys2Proof.Machine
end

section
/-!
PROOFS of O1 to O5. The encoding: a command is its opcode and its two operand fields, so decoding inverts encoding; and
a row of the opcode map is its opcode's code and must-be-zero bits, so selecting a row is decoding to one of its commands.
-/

namespace Sys2Proof

/-! ### Commands and their words -/

/-- The operand fields A and B of a command's word (R81). -/
def Instr.operands : Instr → BitVec 8 × BitVec 16
  | .nop | .crcInit | .rxClear | .frameParse => (0#8, 0#16)
  | .crcByte data | .crcPoly data => (data, 0#16)
  | .crcBuf buf n => (0#7 ++ buf.bit, BitVec.ofNat 16 n)
  | .crcVerify expect => (0#8, expect)
  | .frameReq addr start => (addr, start)
  | .extract idx => (BitVec.ofNat 8 idx, 0#16)
  | .decFlags src => (0#7 ++ src.bit, 0#16)
  | .decAlarm src idx => (0#3 ++ src.bit ++ BitVec.ofNat 4 idx, 0#16)

theorem encode_eq_commandWord (i : Instr) : encode i = commandWord i.opcode.code i.operands.1 i.operands.2 := by
  cases i <;> rfl

/-- The index and the source bit are read back from the operand field of DEC.ALARM (R81). -/
theorem alarmOperand_append (src : WordSource) (x : BitVec 4) :
    (0#3 ++ src.bit ++ x).extractLsb' 0 4 = x ∧ sourceOfBit ((0#3 ++ src.bit ++ x).getLsbD 4) = src ∧
      (0#3 ++ src.bit ++ x).extractLsb' 5 3 = 0#3 := by
  revert x
  cases src <;> decide

theorem bufferOfBit_append (buf : Buffer) :
    bufferOfBit ((0#7 ++ buf.bit).getLsbD 0) = buf ∧ (0#7 ++ buf.bit).extractLsb' 1 7 = 0#7 := by
  cases buf <;> decide

/-- The operand fields of a well-formed command decode to the command. -/
theorem decodeOperands_operands {i : Instr} (hi : i.wellFormed = true) :
    decodeOperands i.operands.1 i.operands.2 i.opcode = .ok i := by
  cases i with
  | crcBuf buf n =>
    have hn : n < 2 ^ 16 := of_decide_eq_true hi
    simp only [Instr.operands, Instr.opcode, decodeOperands, bufferOfBit_append]
    simpa [onlyIf] using hn
  | extract idx =>
    have hidx : idx < 2 ^ 8 := of_decide_eq_true hi
    simpa [Instr.operands, Instr.opcode, decodeOperands, onlyIf] using hidx
  | decFlags src => cases src <;> rfl
  | decAlarm src idx =>
    have hidx : idx < 2 ^ 4 := of_decide_eq_true hi
    simp only [Instr.operands, Instr.opcode, decodeOperands, alarmOperand_append]
    simpa [onlyIf] using hidx
  | nop | crcInit | rxClear | frameParse | frameReq => rfl
  | crcByte | crcPoly | crcVerify => simp [Instr.operands, Instr.opcode, decodeOperands, onlyIf]

theorem bit_bufferOfBit (a : BitVec 8) (h : a.extractLsb' 1 7 = 0#7) :
    0#7 ++ (bufferOfBit (a.getLsbD 0)).bit = a := by
  revert a
  decide

theorem bit_sourceOfBit (a : BitVec 8) (h : a.extractLsb' 1 7 = 0#7) :
    0#7 ++ (sourceOfBit (a.getLsbD 0)).bit = a := by
  revert a
  decide

theorem alarmOperand_fields (a : BitVec 8) (h : a.extractLsb' 5 3 = 0#3) :
    0#3 ++ (sourceOfBit (a.getLsbD 4)).bit ++ a.extractLsb' 0 4 = a := by
  revert a
  decide

/-- The command that decodes from operand fields is well-formed and has exactly these fields: each bit of A and B is in
an operand or must be zero (R81). -/
theorem operands_of_decodeOperands {a : BitVec 8} {b : BitVec 16} {o : Opcode} {i : Instr}
    (h : decodeOperands a b o = .ok i) : i.wellFormed = true ∧ i.operands = (a, b) := by
  cases o
  case frameReq => cases h; exact ⟨rfl, rfl⟩
  all_goals
    obtain ⟨hz, rfl⟩ := onlyIf_eq_ok.1 h
    simp only [Bool.and_eq_true, beq_iff_eq] at hz
  case nop | crcInit | rxClear | frameParse | crcByte | crcPoly | crcVerify =>
    simp [Instr.wellFormed, Instr.operands, hz]
  case crcBuf =>
    simp only [Instr.operands, bit_bufferOfBit a hz, BitVec.ofNat_toNat, BitVec.setWidth_eq]
    exact ⟨decide_eq_true b.isLt, trivial⟩
  case extract => simp [Instr.wellFormed, Instr.operands, hz, a.isLt]
  case decFlags => simp only [Instr.wellFormed, Instr.operands, bit_sourceOfBit a hz.1, hz, and_self]
  case decAlarm =>
    simp only [Instr.operands, BitVec.ofNat_toNat, BitVec.setWidth_eq, alarmOperand_fields a hz.1, hz]
    exact ⟨decide_eq_true (BitVec.isLt _), trivial⟩

/-- Decoding and encoding are inverse to each other on the well-formed commands (R86). -/
theorem decode_eq_ok_iff_encode {w : Word} {i : Instr} :
    decode w = .ok i ↔ i.wellFormed = true ∧ encode i = w := by
  constructor
  · intro h
    obtain ⟨o, hopc, hops⟩ := decode_eq_ok.1 h
    obtain ⟨hwf, hfields⟩ := operands_of_decodeOperands hops
    refine ⟨hwf, ?_⟩
    rw [encode_eq_commandWord, opcode_of_decodeOperands hops, hfields, ← hopc, commandWord_fields]
  · rintro ⟨hwf, rfl⟩
    rw [encode_eq_commandWord, decode_commandWord, decodeOperands_operands hwf]

/-- Settles O1: decoding inverts encoding. -/
theorem decodeOfEncode : Obligations.DecodeOfEncode :=
  fun _ hi => decode_eq_ok_iff_encode.2 ⟨hi, rfl⟩

/-- Settles O2: the other direction. -/
theorem encodeOfDecode : Obligations.EncodeOfDecode :=
  fun _ _ => decode_eq_ok_iff_encode.1

/-! ### Rows of the opcode map -/

/-- The must-be-zero bits of A (R81). -/
def Opcode.zeroA : Opcode → BitVec 8
  | .nop | .crcInit | .crcVerify | .rxClear | .frameParse => 0xFF#8
  | .crcByte | .crcPoly | .frameReq | .extract => 0#8
  | .crcBuf | .decFlags => 0xFE#8
  | .decAlarm => 0xE0#8

/-- The must-be-zero bits of B (R81). -/
def Opcode.zeroB : Opcode → BitVec 16
  | .crcBuf | .crcVerify | .frameReq => 0#16
  | .nop | .crcInit | .crcByte | .crcPoly | .rxClear | .frameParse | .extract | .decFlags | .decAlarm => 0xFFFF#16

/-- An opcode's command with every operand 0: the one that stands for its row in the opcode map. -/
def Opcode.command : Opcode → Instr
  | .nop => .nop
  | .crcInit => .crcInit
  | .crcByte => .crcByte 0
  | .crcPoly => .crcPoly 0
  | .crcBuf => .crcBuf .rx 0
  | .crcVerify => .crcVerify 0
  | .rxClear => .rxClear
  | .frameParse => .frameParse
  | .frameReq => .frameReq 0 0
  | .extract => .extract 0
  | .decFlags => .decFlags .arg0
  | .decAlarm => .decAlarm .arg0 0

/-- The row of an opcode in the opcode map (R82). -/
def Opcode.row (o : Opcode) : OpcodeRow := o.command.row

theorem Instr.row_eq (i : Instr) : i.row = i.opcode.row := by
  cases i <;> rfl

theorem Opcode.row_mask (o : Opcode) : o.row.mask = commandWord 0xFF#8 o.zeroA o.zeroB := by
  cases o <;> rfl

theorem Opcode.row_pattern (o : Opcode) : o.row.pattern = commandWord o.code 0#8 0#16 := by
  cases o <;> rfl

theorem mem_opcodeMap {r : OpcodeRow} : r ∈ opcodeMap ↔ ∃ o : Opcode, o.row = r := by
  constructor
  · intro h
    obtain ⟨i, -, rfl⟩ := List.mem_map.1 h
    exact ⟨i.opcode, i.row_eq.symm⟩
  · rintro ⟨o, rfl⟩
    cases o <;> decide

theorem Opcode.code_injective : Function.Injective Opcode.code := fun o o' h =>
  Option.some.inj ((opcodeOf_code o).symm.trans (h ▸ opcodeOf_code o'))

theorem Opcode.row_injective : Function.Injective Opcode.row := by
  intro o o' h
  have hp : commandWord o.code 0#8 0#16 = commandWord o'.code 0#8 0#16 := by rw [← row_pattern, h, row_pattern]
  exact code_injective (commandWord_inj.1 hp).1

/-- Operands decode exactly when the must-be-zero bits of their opcode are zero (R81, R83). -/
theorem decodeOperands_ok_iff {a : BitVec 8} {b : BitVec 16} {o : Opcode} :
    (∃ i, decodeOperands a b o = .ok i) ↔ a &&& o.zeroA = 0#8 ∧ b &&& o.zeroB = 0#16 := by
  have hone : ∀ a : BitVec 8, a &&& 0xFF#8 = a := fun a => BitVec.and_allOnes
  have hb : b &&& 0xFFFF#16 = b := BitVec.and_allOnes
  have h7 : ∀ a : BitVec 8, a &&& 0xFE#8 = 0#8 ↔ a.extractLsb' 1 7 = 0#7 := by decide
  have h3 : ∀ a : BitVec 8, a &&& 0xE0#8 = 0#8 ↔ a.extractLsb' 5 3 = 0#3 := by decide
  cases o <;>
    simp [decodeOperands, Opcode.zeroA, Opcode.zeroB, onlyIf_eq_ok, hone, hb, h7, h3]

/-- `(w & mask) == match` says that the opcode is the row's and the must-be-zero bits are zero (R82). -/
theorem Opcode.selects_iff {w : Word} {o : Opcode} :
    w &&& o.row.mask = o.row.pattern ↔
      fieldOpc w = o.code ∧ fieldA w &&& o.zeroA = 0#8 ∧ fieldB w &&& o.zeroB = 0#16 := by
  have hone : fieldOpc w &&& 0xFF#8 = fieldOpc w := BitVec.and_allOnes
  rw [row_mask, row_pattern, and_mask_eq_iff, hone]

/-- A word selects an opcode's row exactly when it decodes to a command of that opcode (R82). -/
theorem Opcode.selects_iff_decode {w : Word} {o : Opcode} :
    w &&& o.row.mask = o.row.pattern ↔ ∃ i, decode w = .ok i ∧ i.opcode = o := by
  rw [selects_iff, ← decodeOperands_ok_iff]
  constructor
  · rintro ⟨hopc, i, hi⟩
    exact ⟨i, decode_eq_ok.2 ⟨o, hopc, hi⟩, opcode_of_decodeOperands hi⟩
  · rintro ⟨i, hi, rfl⟩
    obtain ⟨o, hopc, hops⟩ := decode_eq_ok.1 hi
    obtain rfl : i.opcode = o := opcode_of_decodeOperands hops
    exact ⟨hopc, i, hops⟩

/-- Settles O3: the rows are the opcodes', and an OPC value that names no opcode is in no row. -/
theorem wordSelectsRowByMaskAndMatch : Obligations.WordSelectsRowByMaskAndMatch := by
  refine ⟨rfl, fun w r hr => ?_, fun w hw => ?_⟩
  · obtain ⟨o, rfl⟩ := mem_opcodeMap.1 hr
    simp only [Opcode.selects_iff_decode, Instr.row_eq, Opcode.row_injective.eq_iff]
  · cases ho : opcodeOf (fieldOpc w) with
    | none => simp only [decode, ho]
    | some o =>
      have hcode : fieldOpc o.row.pattern = o.code := by rw [Opcode.row_pattern, fieldOpc_commandWord]
      exact absurd ((opcodeOf_eq_some.1 ho).trans hcode.symm) (hw o.row (mem_opcodeMap.2 ⟨o, rfl⟩))

/-! ### Illegal words -/

theorem toNat_fieldOpc (w : Word) : (fieldOpc w).toNat = w.toNat % 256 := by
  simp [fieldOpc]

/-- No OPC value of the reserved ranges is an opcode's (R83 case 1). -/
theorem Opcode.code_not_reserved (o : Opcode) :
    ¬((0x06 ≤ o.code.toNat ∧ o.code.toNat ≤ 0x0F) ∨ (0x13 ≤ o.code.toNat ∧ o.code.toNat ≤ 0x1F) ∨
      (0x21 ≤ o.code.toNat ∧ o.code.toNat ≤ 0x2F) ∨ 0x32 ≤ o.code.toNat) := by
  cases o <;> decide

end Sys2Proof

namespace Sys2Proof.Machine

/-- A word that decodes to no command raises ILLEGAL_COMMAND, for whichever of the two reasons (R83). -/
theorem command_of_not_ok {w : Word} (h : ∀ i, decode w ≠ .ok i) (s : State) :
    command w s = .next (s.withError .illegalCommand) := by
  cases hd : decode w with
  | ok i => exact absurd hd (h i)
  | error e => exact command_of_error hd s

theorem illegalCommand_not_raisable (i : Instr) : CmdError.illegalCommand ∉ raisable i := by
  cases i <;> simp [raisable]

/-- Settles O4: a legal word has its opcode in the map and selects that opcode's row. -/
theorem illegalWordsRaiseIllegalCommand : Obligations.IllegalWordsRaiseIllegalCommand := by
  intro s w
  constructor
  · intro hill
    refine command_of_not_ok (fun i hi => ?_) s
    have hsel := Opcode.selects_iff_decode.2 ⟨i, hi, rfl⟩
    have hopc : w.toNat % 256 = i.opcode.code.toNat := by rw [← toNat_fieldOpc, (Opcode.selects_iff.1 hsel).1]
    have hlisted := i.opcode.code_not_reserved
    rw [hopc] at hill
    rcases hill with hres | hres | hres | hres | ⟨r, hr, hcode, hmask⟩
    case inr.inr.inr.inr =>
      obtain ⟨o, rfl⟩ := mem_opcodeMap.1 hr
      rw [← toNat_fieldOpc, Opcode.row_pattern, fieldOpc_commandWord] at hcode
      exact hmask (Opcode.code_injective (BitVec.eq_of_toNat_eq hcode) ▸ hsel)
    all_goals omega
  · rintro ⟨r, hr, hsel⟩
    obtain ⟨o, rfl⟩ := mem_opcodeMap.1 hr
    obtain ⟨i, hi, -⟩ := Opcode.selects_iff_decode.1 hsel
    obtain ⟨t, ht, hend⟩ := exec_endsWithin i s
    refine ⟨t, (command_of_ok hi s).trans ht, fun hill => ?_⟩
    obtain ⟨hnone, -⟩ | ⟨e, he, hsome, -⟩ := hend
    · exact nomatch hnone.symm.trans hill
    · cases hsome.symm.trans hill
      exact illegalCommand_not_raisable i he

/-- Settles O5: the words are computed; the two illegal ones raise because the decoder rejects them. -/
theorem encodingExamplesHold : Obligations.EncodingExamplesHold := by
  have hreserved : decode 0x00000006#32 = .error .reservedOpcode := by decide
  have hzeroBit : decode 0x00010001#32 = .error .mustBeZeroBit := by decide
  unfold Obligations.EncodingExamplesHold
  and_intros
  rotate_right
  · exact fun s => ⟨command_of_error hreserved s, command_of_error hzeroBit s⟩
  all_goals decide

end Sys2Proof.Machine
end

section
/-!
PROOF of O24. A response is received: RX.CLEAR, one RX_PUSH a byte, FRAME.PARSE. The pushes store the frame from index 0
on, and FRAME.PARSE finds in the stored bytes what the frame was built from.
-/

namespace Sys2Proof.Machine

/-! ### A response in the RX buffer -/

/-- The bytes of a response that its CRC covers (R131). -/
def responseBody (addr stat : Byte) (payload : List Byte) : List Byte :=
  addr :: stat :: BitVec.ofNat 8 payload.length :: payload

/-- The CRC bytes of a response, in wire order (R104, R131). -/
def responseCrc (swap : Bool) (addr stat : Byte) (payload : List Byte) : Byte × Byte :=
  wireOrder swap (crcCompute (responseBody addr stat payload))

theorem responseFrame_eq (swap : Bool) (addr stat : Byte) (payload : List Byte) :
    responseFrame swap addr stat payload = responseBody addr stat payload ++
      [(responseCrc swap addr stat payload).1, (responseCrc swap addr stat payload).2] := rfl

@[simp] theorem length_responseBody (addr stat : Byte) (payload : List Byte) :
    (responseBody addr stat payload).length = payload.length + 3 := rfl

@[simp] theorem length_responseFrame (swap : Bool) (addr stat : Byte) (payload : List Byte) :
    (responseFrame swap addr stat payload).length = payload.length + 5 := by
  simp [responseFrame_eq]

/-- The RX buffer holds this response, its CRC in the wire order that CTRL selects. -/
structure State.HoldsResponse (s : State) (addr stat : Byte) (payload : List Byte) : Prop where
  length : s.rxLen.val = payload.length + 5
  bytes : ∀ j < payload.length + 5, s.rx.read j = (responseFrame s.crcSwap addr stat payload).getD j 0#8

section
variable {s : State} {addr stat : Byte} {payload : List Byte}

theorem State.HoldsResponse.read_addr (h : s.HoldsResponse addr stat payload) : s.rx.read 0 = addr :=
  h.bytes 0 (by omega)

theorem State.HoldsResponse.read_stat (h : s.HoldsResponse addr stat payload) : s.rx.read 1 = stat :=
  h.bytes 1 (by omega)

theorem State.HoldsResponse.read_plen (h : s.HoldsResponse addr stat payload) :
    s.rx.read 2 = BitVec.ofNat 8 payload.length :=
  h.bytes 2 (by omega)

theorem State.HoldsResponse.frameHeader_eq (h : s.HoldsResponse addr stat payload) :
    frameHeader s = BitVec.ofNat 8 payload.length ++ stat ++ addr := by
  rw [frameHeader, h.read_addr, h.read_stat, h.read_plen]

theorem State.HoldsResponse.read_body (h : s.HoldsResponse addr stat payload) {j : Nat} (hj : j < payload.length + 3) :
    s.rx.read j = (responseBody addr stat payload).getD j 0#8 := by
  rw [h.bytes j (by omega), responseFrame_eq, List.getD_append _ _ _ _ hj]

theorem State.HoldsResponse.payloadByte_eq (h : s.HoldsResponse addr stat payload) {o : Nat} (ho : o < payload.length) :
    payloadByte s.rx o = payload.getD o 0#8 := by
  rw [payloadByte, h.read_body (by omega), Nat.add_comm]
  rfl

/-- The CRC of the received bytes is the CRC the response was built with. -/
theorem State.HoldsResponse.expectedCrc_eq (h : s.HoldsResponse addr stat payload) :
    expectedCrc s s.rxLen.val = responseCrc s.crcSwap addr stat payload := by
  have hbody : s.rx.slice 0 (payload.length + 3) = responseBody addr stat payload := by
    refine List.ext_getElem (by simp) fun j _ hj => ?_
    have hread := h.read_body hj
    rw [List.getD_eq_getElem _ _ hj] at hread
    simpa [Memory.slice] using hread
  rw [expectedCrc, h.length, Nat.add_sub_assoc (by decide), hbody, responseCrc]

theorem State.HoldsResponse.receivedCrc_eq (h : s.HoldsResponse addr stat payload) :
    receivedCrc s s.rxLen.val = responseCrc s.crcSwap addr stat payload := by
  have hfirst := h.bytes (payload.length + 3) (by omega)
  have hsecond := h.bytes (payload.length + 4) (by omega)
  rw [responseFrame_eq, List.getD_append_right _ _ _ _ (by simp)] at hfirst hsecond
  rw [receivedCrc, h.length, Nat.add_sub_assoc (by decide), Nat.add_sub_assoc (by decide), hfirst, hsecond]
  simp

end

/-- FRAME_INFO's lowest byte is ADDR (R29). -/
theorem addr_of_frameInfo {t : State} {plen status addr : Byte} (h : t.frameInfo = plen ++ status ++ addr) :
    t.addr = addr := by
  rw [State.addr, h, BitVec.extractLsb'_append_eq_of_add_le (by decide), BitVec.extractLsb'_eq_self]

/-- FRAME.PARSE with every check of R134 met. -/
theorem execFrameParse_of_accepted {s : State} (hlen : 5 ≤ s.rxLen.val) (hrej : ¬RejectingStatus s)
    (hplen : s.rxLen.val = (s.rx.read 2).toNat + 5) (hcrc : expectedCrc s s.rxLen.val = receivedCrc s s.rxLen.val) :
    exec .frameParse s = .next ((((s.withPayloadValid false).withFrameInfo (frameHeader s)).withFrameCrc
      (frameCrcPairs s)).withPayloadValid true).withOk :=
  (execFrameParse_of_long hlen).trans ((parseHeader_of_length (s := s.withPayloadValid false) hrej hplen).trans
    (parseChecksum_of_match (s := (s.withPayloadValid false).withFrameInfo _) hcrc))

theorem execFrameParse_of_response {s : State} {addr stat : Byte} {payload : List Byte}
    (h : s.HoldsResponse addr stat payload) (hpay : payload.length ≤ 255) (h83 : stat ≠ 0x83#8)
    (h86 : stat ≠ 0x86#8) :
    exec .frameParse s = .next ((((s.withPayloadValid false).withFrameInfo (frameHeader s)).withFrameCrc
      (frameCrcPairs s)).withPayloadValid true).withOk := by
  apply execFrameParse_of_accepted
  case hlen => have := h.length; omega
  case hrej => rw [RejectingStatus, h.read_stat]; exact not_or.2 ⟨h83, h86⟩
  case hplen => rw [h.length, h.read_plen, BitVec.toNat_ofNat, Nat.mod_eq_of_lt (by omega)]
  case hcrc => rw [h.expectedCrc_eq, h.receivedCrc_eq]

/-! ### The events of RECV -/

/-- The state after the bytes `bs` were appended to an RX buffer that has room for them (R133). -/
def State.appendRx (s : State) (bs : List Byte) : State :=
  s.withRx (s.rx.writeList s.rxLen.val bs) (Fin.ofNat (Config.rxCap + 1) (s.rxLen.val + bs.length))

theorem State.appendRx_rxLen {s : State} {bs : List Byte} (h : s.rxLen.val + bs.length ≤ Config.rxCap) :
    (s.appendRx bs).rxLen.val = s.rxLen.val + bs.length :=
  Nat.mod_eq_of_lt (Nat.lt_succ_of_le h)

theorem State.appendRx_nil (s : State) : s.appendRx [] = s := by
  have hlen : Fin.ofNat (Config.rxCap + 1) s.rxLen.val = s.rxLen := Fin.ofNat_val_eq_self s.rxLen
  simp only [State.appendRx, State.withRx, Memory.writeList, List.length_nil, Nat.add_zero, hlen]

theorem State.appendRx_cons {s : State} (h : s.rxLen.val < Config.rxCap) (b : Byte) (bs : List Byte) :
    (s.appendRx [b]).appendRx bs = s.appendRx (b :: bs) := by
  have hone : (s.appendRx [b]).rxLen.val = s.rxLen.val + 1 := appendRx_rxLen h
  have hlen : s.rxLen.val + 1 + bs.length = s.rxLen.val + (bs.length + 1) := by omega
  rw [State.appendRx, hone, hlen]
  rfl

/-- An RX_PUSH write with room left appends its byte; the RX buffer holds no accepted frame before or after. -/
theorem rxPush_eq_appendRx {s : State} (hv : s.payloadValid = false) (h : s.rxLen.val < Config.rxCap) (b : Byte) :
    rxPush (b.zeroExtend 32) s = s.appendRx [b] := by
  have hb : (b.zeroExtend 32).extractLsb' 0 8 = b := by
    apply BitVec.eq_of_getLsbD_eq
    intro i hi
    have hi' : i < 32 := by omega
    simp [hi, hi']
  have hs : s.withPayloadValid false = s := hv ▸ rfl
  have hlen : (⟨s.rxLen.val + 1, Nat.succ_lt_succ h⟩ : Fin (Config.rxCap + 1)) = (s.appendRx [b]).rxLen :=
    Fin.ext (State.appendRx_rxLen (bs := [b]) h).symm
  rw [rxPush_of_room h, hs, hb, hlen]
  rfl

theorem step_pushWrite {s : State} {b : Byte} {rest : List BusEvent} (hp : s.pending = pushWrite b :: rest)
    (hv : s.payloadValid = false) (h : s.rxLen.val < Config.rxCap) :
    step s = .next ((s.withPending rest).appendRx [b]) := by
  rw [step_writeReg (r := .rxPush) hp rfl rfl (by decide)]
  exact congrArg _ (rxPush_eq_appendRx (s := s.withPending rest) hv h b)

theorem step_cmdWrite {s : State} {i : Instr} {rest : List BusEvent} (hi : i.wellFormed = true)
    (hp : s.pending = cmdWrite i :: rest) : step s = exec i (s.withPending rest) :=
  (stepRunsDecodedCommand s rest (encode i) hp).1 i (decodeOfEncode i hi)

/-- One step a byte: a run of RX_PUSH writes appends its bytes. -/
theorem runSteps_pushWrites (bs : List Byte) (k : Nat) {s : State} {rest : List BusEvent}
    (hp : s.pending = bs.map pushWrite ++ rest) (hv : s.payloadValid = false)
    (h : s.rxLen.val + bs.length ≤ Config.rxCap) :
    runSteps (bs.length + k) s = runSteps k ((s.withPending rest).appendRx bs) := by
  induction bs generalizing s with
  | nil =>
    obtain rfl : s.pending = rest := hp
    rw [State.appendRx_nil, List.length_nil, Nat.zero_add]
    rfl
  | cons b bs ih =>
    rw [List.length_cons] at h
    have hroom : s.rxLen.val < Config.rxCap := by omega
    have hlen : (s.appendRx [b]).rxLen.val = s.rxLen.val + 1 := State.appendRx_rxLen hroom
    have hrest : (s.appendRx [b]).rxLen.val + bs.length ≤ Config.rxCap := by omega
    calc runSteps ((b :: bs).length + k) s
      _ = runSteps (bs.length + k + 1) s := by rw [List.length_cons, Nat.add_right_comm]
      _ = runSteps (bs.length + k) ((s.withPending (bs.map pushWrite ++ rest)).appendRx [b]) :=
        runSteps_of_step (step_pushWrite hp hv hroom) _
      _ = runSteps k (((s.withPending rest).appendRx [b]).appendRx bs) := ih rfl hv hrest
      _ = runSteps k ((s.withPending rest).appendRx (b :: bs)) :=
        congrArg _ (State.appendRx_cons (s := s.withPending rest) hroom b bs)

theorem runSteps_one (s : State) : runSteps 1 s = step s := by
  unfold runSteps
  cases step s <;> rfl

/-- The state after RX.CLEAR. -/
def State.cleared (s : State) : State := ((s.withRx s.rx 0).withPayloadValid false).withOk

theorem exec_rxClear (s : State) : exec .rxClear s = .next s.cleared := rfl

/-- RECV ends in FRAME.PARSE on a buffer that holds exactly the received bytes (R88). -/
theorem runSteps_recv {s : State} {bs : List Byte} {rest : List BusEvent}
    (hp : s.pending = (Stmt.recv bs).events ++ rest) (h : bs.length ≤ Config.rxCap) :
    runSteps (bs.length + 2) s = exec .frameParse ((s.withPending rest).cleared.appendRx bs) := by
  have hp' : s.pending = cmdWrite .rxClear :: (bs.map pushWrite ++ (cmdWrite .frameParse :: rest)) := by
    simpa [Stmt.events] using hp
  have hclear := (step_cmdWrite rfl hp').trans (exec_rxClear _)
  have hroom : (0 : Nat) + bs.length ≤ Config.rxCap := by omega
  rw [runSteps_of_step hclear, runSteps_pushWrites bs 1 rfl rfl hroom, runSteps_one]
  exact step_cmdWrite rfl rfl

theorem holdsResponse_of_received {s : State} {addr stat : Byte} {payload : List Byte} (hwf : s.rx.wf = true)
    (hpay : payload.length ≤ 255) :
    (s.cleared.appendRx (responseFrame s.crcSwap addr stat payload)).HoldsResponse addr stat payload where
  length := by
    have hroom : (0 : Nat) + (responseFrame s.crcSwap addr stat payload).length ≤ 260 := by
      rw [length_responseFrame]
      omega
    have hlen := State.appendRx_rxLen (s := s.cleared) hroom
    rw [hlen, length_responseFrame]
    exact Nat.zero_add _
  bytes := fun j hj => by
    have hin : 0 ≤ j ∧ j < 0 + (responseFrame s.crcSwap addr stat payload).length := by simpa using hj
    exact (Memory.read_writeList hwf 0 _ j).trans (if_pos hin)

/-- RECV of a response leaves what FRAME.PARSE makes of an RX buffer that holds it. -/
theorem runSteps_recv_response (s : State) (addr stat : Byte) {payload : List Byte} (rest : List BusEvent)
    (hpay : payload.length ≤ 255) :
    runSteps (payload.length + 7)
        { s with pending := (Stmt.recv (responseFrame s.crcSwap addr stat payload)).events ++ rest } =
      exec .frameParse ((s.withPending rest).cleared.appendRx (responseFrame s.crcSwap addr stat payload)) := by
  have hlen : (responseFrame s.crcSwap addr stat payload).length = payload.length + 5 := length_responseFrame _ _ _ _
  have hsteps : payload.length + 7 = (responseFrame s.crcSwap addr stat payload).length + 2 := by rw [hlen]
  rw [hsteps]
  exact runSteps_recv rfl (hlen ▸ Nat.add_le_add_right hpay 5)

/-- Settles O24: the received bytes meet every check of FRAME.PARSE. -/
theorem everyNonRejectingResponseIsAccepted : Obligations.EveryNonRejectingResponseIsAccepted := by
  intro s addr stat payload rest hwf hpay h83 h86
  have hholds := holdsResponse_of_received (s := s.withPending rest) (addr := addr) (stat := stat) hwf hpay
  have hplen : (BitVec.ofNat 8 payload.length).toNat = payload.length := Nat.mod_eq_of_lt (by omega)
  have hinfo := hholds.frameHeader_eq
  refine ⟨_, (runSteps_recv_response s addr stat rest hpay).trans
    (execFrameParse_of_response hholds hpay h83 h86), ?_⟩
  refine ⟨rfl, rfl, rfl, addr_of_frameInfo hinfo, stat_of_frameInfo hinfo, (plen_of_frameInfo hinfo).trans hplen,
    fun o ho => hholds.payloadByte_eq ho, ?rxOvf, ?errSeen⟩
  case rxOvf | errSeen => simp [State.appendRx, State.cleared]

end Sys2Proof.Machine
end

section
/-!
SUPPORT. Illegal words said by opcode, command sequences, and CRC.BUF by its two cases.
-/

namespace Sys2Proof.Machine

/-- A word with one of its opcode's must-be-zero bits set raises ILLEGAL_COMMAND (R83 case 2). -/
theorem illegalWhenSet_zeroBits (o : Opcode) : IllegalWhenSet o.code (commandWord 0#8 o.zeroA o.zeroB) := by
  intro s w hopc hset
  refine command_of_not_ok (fun i hi => hset ?_) s
  obtain ⟨hcode, ha, hb⟩ := Opcode.selects_iff.1 (Opcode.selects_iff_decode.2 ⟨i, hi, rfl⟩)
  obtain rfl : i.opcode = o := Opcode.code_injective (hcode.symm.trans hopc)
  exact (and_mask_eq_iff w 0#8 i.opcode.zeroA 0#8 0#8 i.opcode.zeroB 0#16).2 ⟨BitVec.and_zero, ha, hb⟩

theorem runCommands_cons {i : Instr} {s t : State} (h : exec i s = .next t) (is : List Instr) :
    runCommands (i :: is) s = runCommands is t := by
  simp only [runCommands, h]

/-- CRC.BYTE commands one after another fold their bytes into the accumulator (R100, R107). -/
theorem runCommands_crcBytes (bs : List Byte) (is : List Instr) (s : State) :
    runCommands (bs.map Instr.crcByte ++ is) s.withOk = runCommands is (s.withAcc (crcFold s.acc bs)).withOk := by
  induction bs generalizing s with
  | nil => rfl
  | cons b bs ih => exact (runCommands_cons rfl _).trans (ih (s.withAcc (crcStepTbl s.crcHi s.crcLo b)))

/-- A slice from index 0 on, as the statements write a buffer's first bytes. -/
theorem Memory.slice_eq_map_read (m : Memory) (n : Nat) : m.slice 0 n = (List.range n).map m.read := by
  simp [Memory.slice]

theorem exec_crcBuf_of_le {buf : Buffer} {n : Nat} {s : State} (hn : n ≤ bufferLength buf s) :
    exec (.crcBuf buf n) s =
      .next (s.withAcc (crcFold s.acc ((List.range n).map (bufferBytes buf s).read))).withOk := by
  rw [← Memory.slice_eq_map_read]
  exact if_neg (Nat.not_lt.2 hn)

theorem exec_crcBuf_of_gt {buf : Buffer} {n : Nat} {s : State} (hn : bufferLength buf s < n) :
    exec (.crcBuf buf n) s = .next (s.withError .bufferRange) :=
  if_pos hn

end Sys2Proof.Machine
end

section
/-!
PROOFS of O8 to O17 and O26. The accumulator read as `CRC_LO ++ CRC_HI` is the register of the bit-serial datapath, and
one table step is one bit-serial step on it, because the eight shifts are linear over exclusive or. A shift loses
nothing, since the polynomial's top bit keeps the bit shifted out; so a changed byte changes every later register.
-/

namespace Sys2Proof.Machine

/-! ### The two datapaths -/

/-- An accumulator (CRC_HI, CRC_LO) as the bit-serial register `CRC_LO ++ CRC_HI` (R101, R108). -/
def crcRegister (p : Byte × Byte) : BitVec 16 := p.2 ++ p.1

/-- The two tables hold the eight shifts of a low byte (R102). -/
theorem crcShifts_lowByte (i : Byte) : crcShifts 8 (0#8 ++ i) = tblLo i ++ tblHi i := by
  revert i
  decide

/-- Over a zero low byte, eight shifts only move the high byte down. -/
theorem crcShifts_highByte (lo : Byte) : crcShifts 8 (lo ++ 0#8) = 0#8 ++ lo := by
  revert lo
  decide

/-- One bit-serial step on the register is one table step on the accumulator (R103). -/
theorem crcStepPoly_append (hi lo b : Byte) : crcStepPoly (lo ++ hi) b = crcRegister (crcStepTbl hi lo b) := by
  have hsplit : (lo ++ hi) ^^^ b.zeroExtend 16 = (0#8 ++ (hi ^^^ b)) ^^^ (lo ++ 0#8) := by
    rw [zeroExtend_eq_zero_append 8 b, BitVec.xor_append, BitVec.xor_append]
    simp only [BitVec.xor_zero, BitVec.zero_xor]
  calc crcStepPoly (lo ++ hi) b
      = crcShifts 8 (0#8 ++ (hi ^^^ b)) ^^^ crcShifts 8 (lo ++ 0#8) := by
        rw [crcStepPoly, hsplit, crcShifts_xor]
    _ = (tblLo (hi ^^^ b) ++ tblHi (hi ^^^ b)) ^^^ (0#8 ++ lo) := by
        rw [crcShifts_lowByte, crcShifts_highByte]
    _ = crcRegister (crcStepTbl hi lo b) := by
        rw [BitVec.xor_append, BitVec.xor_zero, BitVec.xor_comm _ lo]
        rfl

/-- The accumulator is read back from its register. -/
theorem split_crcRegister (p : Byte × Byte) :
    ((crcRegister p).extractLsb' 0 8, (crcRegister p).extractLsb' 8 8) = p := by
  rw [crcRegister, BitVec.extractLsb'_append_eq_right, BitVec.extractLsb'_append_eq_left]

theorem crcStepTbl_eq_split (hi lo b : Byte) :
    crcStepTbl hi lo b =
      ((crcStepPoly (lo ++ hi) b).extractLsb' 0 8, (crcStepPoly (lo ++ hi) b).extractLsb' 8 8) := by
  rw [crcStepPoly_append, split_crcRegister]

/-- Folding table steps is folding bit-serial steps on the register (R103). -/
theorem crcRegister_crcFold (p : Byte × Byte) (bs : List Byte) :
    crcRegister (crcFold p bs) = bs.foldl crcStepPoly (crcRegister p) := by
  induction bs generalizing p with
  | nil => rfl
  | cons b bs ih =>
    rw [crcFold_cons, ih, ← crcStepPoly_append]
    rfl

theorem exec_crcPoly_eq_crcByte (data : Byte) (s : State) : exec (.crcPoly data) s = exec (.crcByte data) s :=
  congrArg (fun p => complete (s.withAcc p)) (crcStepTbl_eq_split s.crcHi s.crcLo data).symm

/-- Settles O12: the bit-serial step on the register is the table step. -/
theorem crcDatapathsAgree : Obligations.CrcDatapathsAgree :=
  ⟨crcStepTbl_eq_split, crcRegister_crcFold crcSeed, exec_crcPoly_eq_crcByte⟩

/-- Settles O11: T(i) is a bit-serial step on the register that holds `i` in its low byte. -/
theorem crcTablesFollowFromPolynomial : Obligations.CrcTablesFollowFromPolynomial := by
  intro i
  have hstep : crcStepPoly (i.zeroExtend 16) 0#8 = crcRegister (tblHi i, tblLo i) := by
    rw [zeroExtend_eq_zero_append 8 i, crcStepPoly_append]
    simp only [crcStepTbl, BitVec.xor_zero, BitVec.zero_xor]
  rw [hstep]
  exact Prod.mk.inj (split_crcRegister (tblHi i, tblLo i)).symm

/-! ### CRC.BUF -/

/-- CRC.BUF and CRC.BYTE over the same bytes leave the same state, for either buffer (R109). -/
theorem exec_crcBuf_eq_runCommands {buf : Buffer} {n : Nat} {s : State} (hn : n ≤ bufferLength buf s) :
    exec (.crcBuf buf n) s.withOk =
      runCommands ((List.range n).map fun k => Instr.crcByte ((bufferBytes buf s).read k)) s.withOk := by
  have hrun := runCommands_crcBytes ((List.range n).map (bufferBytes buf s).read) [] s
  rw [List.append_nil, List.map_map] at hrun
  exact (exec_crcBuf_of_le (s := s.withOk) hn).trans hrun.symm

/-- CRC.INIT, then CRC.BUF: the accumulator is compute of the buffer's first bytes (R88, R109). -/
theorem runCommands_crcOver {buf : Buffer} {n : Nat} {s : State} (hn : n ≤ bufferLength buf s) :
    runCommands [.crcInit, .crcBuf buf n] s =
      .next (s.withAcc (crcCompute ((List.range n).map (bufferBytes buf s).read))).withOk :=
  (runCommands_cons rfl _).trans (runCommands_cons (exec_crcBuf_of_le (s := (s.withAcc crcSeed).withOk) hn) [])

/-- Settles O14: both fold the buffer's first bytes into the accumulator. -/
theorem crcBufEqualsBytesOneByOne : Obligations.CrcBufEqualsBytesOneByOne :=
  ⟨fun _ _ => exec_crcBuf_eq_runCommands (buf := .rx), fun _ _ => exec_crcBuf_eq_runCommands (buf := .tx)⟩

/-! ### CRC.VERIFY -/

/-- Settles O16: the bytes leave compute(b) in the accumulator, and CRC.VERIFY ends in one of its two ways. -/
theorem verifyAcceptsExactlyTheComputedCrc : Obligations.VerifyAcceptsExactlyTheComputedCrc := by
  intro bs expect s
  have hrun : runCommands (.crcInit :: bs.map Instr.crcByte ++ [.crcVerify expect]) s =
      runCommands [.crcVerify expect] (s.withAcc (crcCompute bs)).withOk :=
    (runCommands_cons rfl _).trans (runCommands_crcBytes bs _ (s.withAcc crcSeed))
  obtain ⟨t, ht, hend⟩ := exec_end (.crcVerify expect) (s.withAcc (crcCompute bs)).withOk
  refine ⟨t, hrun.trans (runCommands_cons ht []), ?_⟩
  cases hend with
  | verified he => exact ⟨iff_of_true rfl he.symm, iff_of_true rfl he.symm, rfl⟩
  | verifyFailed he => exact ⟨iff_of_false nofun (Ne.symm he), iff_of_false nofun (Ne.symm he), rfl⟩

/-! ### A changed byte -/

/-- The polynomial's top bit keeps the bit that a shift moves out (R101). -/
theorem crcShift_getLsbD_top (c : BitVec 16) : (crcShift c).getLsbD 15 = c.getLsbD 0 := by
  rw [crcShift]
  split
  case isTrue h =>
    rw [h]
    simp
  case isFalse h =>
    rw [eq_false_of_ne_true h]
    simp

theorem crcShift_injective : Function.Injective crcShift := by
  intro c d h
  have hlow : c.getLsbD 0 = d.getLsbD 0 := by rw [← crcShift_getLsbD_top, h, crcShift_getLsbD_top]
  have hhigh : c >>> 1 = d >>> 1 := by
    simp only [crcShift, hlow] at h
    split at h
    · exact (BitVec.xor_left_inj _).1 h
    · exact h
  refine BitVec.eq_of_getLsbD_eq fun i hi => ?_
  cases i with
  | zero => exact hlow
  | succ i => simpa [Nat.add_comm] using congrArg (·.getLsbD i) hhigh

theorem crcShifts_injective (n : Nat) : Function.Injective (crcShifts n) := by
  induction n with
  | zero => exact Function.injective_id
  | succ n ih => exact ih.comp crcShift_injective

/-- Bit-serial steps over the same bytes keep different registers different. -/
theorem foldl_crcStepPoly_injective (bs : List Byte) : Function.Injective fun c => bs.foldl crcStepPoly c := by
  induction bs with
  | nil => exact Function.injective_id
  | cons b bs ih => exact fun c d h => (BitVec.xor_left_inj _).1 (crcShifts_injective 8 (ih h))

/-- From one register, different bytes step to different registers. -/
theorem crcStepPoly_byte_injective (c : BitVec 16) : Function.Injective (crcStepPoly c) := by
  intro b b' h
  have hext : b.zeroExtend 16 = b'.zeroExtend 16 := (BitVec.xor_right_inj _).1 (crcShifts_injective 8 h)
  simpa using congrArg (BitVec.setWidth 8) hext

/-- Settles O17: the changed byte changes the register, and the bytes after it keep the registers different. -/
theorem oneChangedByteChangesCrc : Obligations.OneChangedByteChangesCrc := by
  intro pre post b b' hne heq
  have hfold : (pre ++ b :: post).foldl crcStepPoly (crcRegister crcSeed) =
      (pre ++ b' :: post).foldl crcStepPoly (crcRegister crcSeed) := by
    rw [← crcRegister_crcFold, ← crcRegister_crcFold]
    exact congrArg crcRegister heq
  simp only [List.foldl_append, List.foldl_cons] at hfold
  exact hne (crcStepPoly_byte_injective _ (foldl_crcStepPoly_injective post hfold))

/-! ### A request's own CRC -/

/-- A table step over CRC_HI itself looks up entry 0 and shifts CRC_LO up. -/
theorem crcStepTbl_hi (hi lo : Byte) : crcStepTbl hi lo hi = (lo, 0#8) := by
  have hzero : tblHi 0#8 = 0#8 ∧ tblLo 0#8 = 0#8 := by decide
  simp only [crcStepTbl, BitVec.xor_self, hzero, BitVec.xor_zero]

/-- A CRC followed by its own two bytes is 0 (R104: CRC_HI first). -/
theorem crcFold_own_bytes (p : Byte × Byte) : crcFold p [p.1, p.2] = (0#8, 0#8) := by
  simp only [crcFold_cons, crcFold_nil, crcStepTbl_hi]

theorem crcCompute_requestBytes (addr : Byte) (start count : Half) :
    crcCompute (requestBytes false addr start count) = (0#8, 0#8) := by
  rw [requestBytes, crcCompute, crcFold_append]
  exact crcFold_own_bytes (crcCompute (requestHead addr start count))

/-- Settles O26: TX holds the request head and the head's CRC, so the fold ends at 0. -/
theorem requestChecksItselfToZero : Obligations.RequestChecksItselfToZero := by
  intro addr start s hs hswap
  have htx : (List.range 8).map (requestTx addr start s).read =
      requestBytes false addr start (s.arg0.extractLsb' 0 16) := by
    rw [← Memory.slice_eq_map_read, requestTx_eq_writeList hs, hswap]
    exact Memory.slice_writeList_zero hs _
  have hover := runCommands_crcOver (buf := .tx) (n := 8)
    (s := (s.withTx (requestTx addr start s) (Fin.last Config.txCap)).withOk) (le_refl 8)
  rw [bufferBytes, State.withOk_tx, State.withTx_tx, htx, crcCompute_requestBytes] at hover
  exact ⟨_, (runCommands_cons rfl _).trans hover, rfl, rfl, rfl⟩

/-! ### The commands one by one -/

/-- Settles O8: CRC.INIT by definition, its word by the encoder, its zero bits by its row. -/
theorem crcInitSeedsAccumulator : Obligations.CrcInitSeedsAccumulator :=
  ⟨fun _ => rfl, decodeOfEncode .crcInit rfl, illegalWhenSet_zeroBits .crcInit⟩

/-- Settles O9: CRC.BYTE likewise, and R107's two corner cases computed. -/
theorem crcByteIsOneTableStep : Obligations.CrcByteIsOneTableStep :=
  ⟨fun _ _ => rfl, fun data => decodeOfEncode (.crcByte data) rfl, illegalWhenSet_zeroBits .crcByte,
    by decide, by decide⟩

/-- Settles O10: CRC.POLY leaves the state of CRC.BYTE because the datapaths agree. -/
theorem crcPolyIsOneBitSerialStep : Obligations.CrcPolyIsOneBitSerialStep :=
  ⟨fun _ _ => rfl, exec_crcPoly_eq_crcByte, fun data => decodeOfEncode (.crcPoly data) rfl,
    illegalWhenSet_zeroBits .crcPoly, by decide⟩

/-- Settles O13: the range check, then the fold; and the words of either buffer. -/
theorem crcBufFoldsPrefix : Obligations.CrcBufFoldsPrefix := by
  refine ⟨fun _ _ => exec_crcBuf_of_le (buf := .rx), fun _ _ => exec_crcBuf_of_le (buf := .tx),
    fun _ _ => exec_crcBuf_of_gt (buf := .rx), fun _ _ => exec_crcBuf_of_gt (buf := .tx), fun n => ⟨?rx, ?tx⟩,
    illegalWhenSet_zeroBits .crcBuf, by decide⟩
  case rx => exact decode_commandWord .crcBuf 0x00#8 n
  case tx => exact decode_commandWord .crcBuf 0x01#8 n

/-- Settles O15: CRC.VERIFY by its comparison. -/
theorem crcVerifyComparesAccumulator : Obligations.CrcVerifyComparesAccumulator := by
  refine ⟨fun s => if_pos rfl, fun expect s hne => if_neg hne.symm, fun expect => ?word,
    illegalWhenSet_zeroBits .crcVerify⟩
  case word =>
    have hlow : 0x0005#16 = 0x00#8 ++ 0x05#8 := by decide
    have hword : expect ++ 0x0005#16 = commandWord 0x05#8 0x00#8 expect := by
      rw [commandWord, BitVec.append_assoc, BitVec.cast_eq, hlow]
    rw [hword]
    exact decode_commandWord .crcVerify 0#8 expect

end Sys2Proof.Machine
end

section
/-!
PROOFS of O18 to O23 and O25. FRAME.PARSE has five ends, a raise at each of its four checks and the acceptance; each is
said once, with the checks that lead to it. A parse changes nothing that the checks read, so the second parse ends as the first one did. A changed payload byte
meets every check but the last: it changes the CRC of the frame (O17).
-/

namespace Sys2Proof.Machine

/-! ### The ends of FRAME.PARSE, each with the whole state it leaves -/

section
variable {s : State}

theorem exec_frameParse_of_short (hlen : s.rxLen.val < 5) :
    exec .frameParse s = .next { s with payloadValid := false, lastErr := some .tooShort, errSeen := true } :=
  execFrameParse_of_short hlen

theorem exec_frameParse_of_rejected (hlen : 5 ≤ s.rxLen.val) (hrej : RejectingStatus s) :
    exec .frameParse s = .next { s with
      payloadValid := false
      frameInfo := frameHeader s
      devErr := s.rx.read 2
      lastErr := some .deviceRejected
      errSeen := true } :=
  (execFrameParse_of_long hlen).trans (parseHeader_of_rejected (s := s.withPayloadValid false) hrej)

theorem exec_frameParse_of_wrong_length (hlen : 5 ≤ s.rxLen.val) (hrej : ¬RejectingStatus s)
    (hplen : s.rxLen.val ≠ (s.rx.read 2).toNat + 5) :
    exec .frameParse s = .next { s with
      payloadValid := false
      frameInfo := frameHeader s
      lastErr := some .lengthMismatch
      errSeen := true } :=
  (execFrameParse_of_long hlen).trans (parseHeader_of_wrong_length (s := s.withPayloadValid false) hrej hplen)

theorem exec_frameParse_of_mismatch (hlen : 5 ≤ s.rxLen.val) (hrej : ¬RejectingStatus s)
    (hplen : s.rxLen.val = (s.rx.read 2).toNat + 5) (hcrc : expectedCrc s s.rxLen.val ≠ receivedCrc s s.rxLen.val) :
    exec .frameParse s = .next { s with
      payloadValid := false
      frameInfo := frameHeader s
      frameCrc := frameCrcPairs s
      lastErr := some .checksumMismatch
      errSeen := true } :=
  (execFrameParse_of_long hlen).trans ((parseHeader_of_length (s := s.withPayloadValid false) hrej hplen).trans
    (parseChecksum_of_mismatch (s := (s.withPayloadValid false).withFrameInfo _) hcrc))

theorem exec_frameParse_of_match (hlen : 5 ≤ s.rxLen.val) (hrej : ¬RejectingStatus s)
    (hplen : s.rxLen.val = (s.rx.read 2).toNat + 5) (hcrc : expectedCrc s s.rxLen.val = receivedCrc s s.rxLen.val) :
    exec .frameParse s = .next { s with
      payloadValid := true
      frameInfo := frameHeader s
      frameCrc := frameCrcPairs s
      lastErr := none } :=
  execFrameParse_of_accepted hlen hrej hplen hcrc

end

/-- Settles O22: what the first parse leaves meets the same checks and already holds what they record. -/
theorem frameParseIsIdempotent : Obligations.FrameParseIsIdempotent := by
  intro s t h
  cases commandEnd_of_exec h with
  | parseTooShort hlen => exact exec_frameParse_of_short hlen
  | parseRejected hlen hrej => exact exec_frameParse_of_rejected hlen hrej
  | parseWrongLength hlen hrej hplen => exact exec_frameParse_of_wrong_length hlen hrej hplen
  | parseMismatch hlen hrej hplen hcrc => exact exec_frameParse_of_mismatch hlen hrej hplen hcrc
  | parseAccepted hlen hrej hplen hcrc =>
    -- As one flat record the state compares quickly with the one that the lemma gives.
    dsimp only [State.withPayloadValid, State.withFrameInfo, State.withFrameCrc, State.withOk]
    exact exec_frameParse_of_match hlen hrej hplen hcrc

/-! ### A corrupted payload byte -/

/-- A slice cut at one of its bytes. -/
theorem Memory.slice_eq_append_cons (m : Memory) (a k : Nat) :
    m.slice 0 (a + 1 + k) = m.slice 0 a ++ m.read a :: m.slice (a + 1) k := by
  induction k with
  | zero => rw [Nat.add_zero, Memory.slice_succ, Nat.zero_add, Memory.slice_zero]
  | succ k ih =>
    rw [← Nat.add_assoc, Memory.slice_succ, ih, Memory.slice_succ, Nat.zero_add, List.append_assoc, List.cons_append]

/-- Writing another byte inside the bytes that a CRC covers changes the CRC. -/
theorem crcCompute_slice_write_ne {m : Memory} (hm : m.wf = true) {a n : Nat} (ha : a < n) {b : Byte}
    (hb : b ≠ m.read a) : crcCompute ((m.write a b).slice 0 n) ≠ crcCompute (m.slice 0 n) := by
  obtain ⟨k, rfl⟩ := Nat.exists_eq_add_of_le (Nat.succ_le_of_lt ha)
  have hpre : (m.write a b).slice 0 a = m.slice 0 a :=
    Memory.slice_congr fun j hj => Memory.read_write_ne hm b (by omega)
  have hpost : (m.write a b).slice (a + 1) k = m.slice (a + 1) k :=
    Memory.slice_congr fun j hj => Memory.read_write_ne hm b (by omega)
  rw [Memory.slice_eq_append_cons, Memory.slice_eq_append_cons, hpre, hpost, Memory.read_write_self hm]
  exact oneChangedByteChangesCrc _ _ _ _ hb

/-- Settles O23: header, length and received CRC stay, so only the comparison with the expected CRC can fail, and the
changed byte changes that CRC. -/
theorem corruptedPayloadByteIsRejected : Obligations.CorruptedPayloadByteIsRejected := by
  intro s t o b hwf h hv ho hb
  cases commandEnd_of_exec h with
  | parseTooShort | parseRejected | parseWrongLength | parseMismatch => exact nomatch (hv : false = true)
  | parseAccepted hlen hrej hplen hcrc =>
    have hpay : o < (s.rx.read 2).toNat := ho.trans_eq (plen_of_frameInfo rfl)
    have hread {x : Nat} (hx : x ≠ 3 + o) : (s.rx.write (3 + o) b).read x = s.rx.read x :=
      Memory.read_write_ne hwf b hx
    refine ⟨_, exec_frameParse_of_mismatch (s := { s with rx := s.rx.write (3 + o) b }) hlen ?rej ?plen ?crc,
      rfl, rfl⟩
    case rej => rwa [RejectingStatus, hread (by omega)]
    case plen => rwa [hread (by omega)]
    case crc =>
      intro heq
      dsimp only [receivedCrc] at heq
      rw [hread (by omega), hread (by omega)] at heq
      exact crcCompute_slice_write_ne hwf (by omega) hb
        (Function.Involutive.injective (wireOrder_involutive s.crcSwap) (heq.trans hcrc.symm))

/-! ### The outcomes of FRAME.PARSE as the rule lists them -/

/-- The expected CRC bytes from the frame's CRC (R104, R134 step 5). -/
theorem expectedCrc_of_compute {s : State} {n : Nat} {hi lo : Byte}
    (h : (hi, lo) = crcCompute ((List.range (n - 2)).map s.rx.read)) :
    expectedCrc s n = if s.crcSwap then (lo, hi) else (hi, lo) := by
  rw [expectedCrc, Memory.slice_eq_map_read, ← h, wireOrder]

/-- Settles O21: one end a clause; in the last clause the comparison chooses between two. -/
theorem frameParseFollowsItsSteps : Obligations.FrameParseFollowsItsSteps := by
  refine ⟨fun s => exec_frameParse_of_short, fun s => exec_frameParse_of_rejected,
    fun s hlen h83 h86 => exec_frameParse_of_wrong_length hlen (not_or.2 ⟨h83, h86⟩), ?checksum,
    decodeOfEncode .frameParse rfl, illegalWhenSet_zeroBits .frameParse⟩
  case checksum =>
    intro s hi lo c r hlen h83 h86 hplen hcompute hc hr
    obtain rfl : expectedCrc s s.rxLen.val = c := (expectedCrc_of_compute hcompute).trans hc.symm
    obtain rfl : receivedCrc s s.rxLen.val = r := hr.symm
    split
    case isTrue hcrc => exact exec_frameParse_of_match hlen (not_or.2 ⟨h83, h86⟩) hplen hcrc
    case isFalse hcrc => exact exec_frameParse_of_mismatch hlen (not_or.2 ⟨h83, h86⟩) hplen hcrc

/-- Settles O20: the last clause of O21, its comparison decided. -/
theorem frameParseAcceptsValidFrame : Obligations.FrameParseAcceptsValidFrame := by
  intro s hi lo hlen h83 h86 hplen hcompute hcrc
  obtain ⟨-, -, -, hchecksum, -⟩ := frameParseFollowsItsSteps
  exact (hchecksum s hi lo _ _ hlen h83 h86 hplen hcompute hcrc.symm rfl).trans (if_pos rfl)

/-! ### RX.CLEAR and RX_PUSH -/

/-- Settles O18: the length 0 masks every window byte. -/
theorem rxClearEmptiesBuffer : Obligations.RxClearEmptiesBuffer := by
  refine ⟨fun _ => rfl, fun s t k h => ?window, decodeOfEncode .rxClear rfl, illegalWhenSet_zeroBits .rxClear⟩
  case window =>
    cases commandEnd_of_exec h
    exact windowWord_zero s.rx k.val

/-- Settles O19: the two cases of the RX_PUSH write. -/
theorem rxPushAppendsOrOverflows : Obligations.RxPushAppendsOrOverflows := by
  intro s rest v hp
  have hstep : step s = .next (rxPush v (s.withPending rest)) :=
    step_writeReg hp rfl (registerOf_of_offset (r := .rxPush) rfl) (by decide)
  rw [hstep]
  constructor
  · intro hfull
    rw [rxPush_of_full (s := s.withPending rest) (Nat.not_lt.2 hfull.ge)]
    rfl
  · intro hroom hwf
    rw [rxPush_of_room (s := s.withPending rest) hroom]
    exact ⟨_, rfl, rfl, Memory.read_write_self hwf _ _, fun a ha => Memory.read_write_ne hwf _ ha, rfl⟩

/-! ### FRAME.REQ -/

/-- The word count of a request is ARG0[15:0], high byte first (R136). -/
theorem requestHead_arg0 (addr : Byte) (start : Half) (arg : Word) :
    requestHead addr start (arg.extractLsb' 0 16) =
      [addr, 0x03#8, start.extractLsb' 8 8, start.extractLsb' 0 8, arg.extractLsb' 8 8, arg.extractLsb' 0 8] := by
  rw [requestHead, BitVec.extractLsb'_extractLsb'_of_le (by decide), BitVec.extractLsb'_extractLsb'_of_le (by decide)]

/-- The CRC bytes of a request, one by one (R104). -/
theorem requestCrc_of_compute {swap : Bool} {addr : Byte} {start count : Half} {hi lo : Byte}
    (h : (hi, lo) = crcCompute (requestHead addr start count)) :
    requestCrc swap addr start count = (if swap then lo else hi, if swap then hi else lo) := by
  rw [requestCrc, ← h]
  cases swap <;> rfl

/-- FRAME.REQ leaves the bytes of TX past the request. -/
theorem read_requestTx_of_ge {s : State} (hs : s.tx.wf = true) (addr : Byte) (start : Half) {a : Nat} (ha : 8 ≤ a) :
    (requestTx addr start s).read a = s.tx.read a := by
  have hout : ¬(0 ≤ a ∧ a < 0 + (requestBytes s.crcSwap addr start (s.arg0.extractLsb' 0 16)).length) :=
    fun h => Nat.not_lt.2 ha h.2
  rw [requestTx_eq_writeList hs, Memory.read_writeList hs, if_neg hout]

/-- Settles O25: TX holds the head and its CRC bytes, and every word of the opcode decodes. -/
theorem frameReqBuildsRequest : Obligations.FrameReqBuildsRequest := by
  constructor
  · intro addr start s hi lo hs hcompute
    rw [← requestHead_arg0] at hcompute
    have hread {a : Nat} (ha : a < 8) := read_requestTx hs addr start ha
    simp only [requestBytes, requestCrc_of_compute hcompute, requestHead_arg0] at hread
    exact ⟨_, rfl, hread (a := 0) (by decide), hread (a := 1) (by decide), hread (a := 2) (by decide),
      hread (a := 3) (by decide), hread (a := 4) (by decide), hread (a := 5) (by decide), hread (a := 6) (by decide),
      hread (a := 7) (by decide), rfl, fun a ha => read_requestTx_of_ge hs addr start ha, rfl⟩
  · exact decode_commandWord .frameReq

end Sys2Proof.Machine
end

section
/-!
PROOFS of O30 to O33. `rnd` answers the quotient or its successor, so it is a nearest integer, keeps its value when
numerator and denominator are multiplied alike, and is exact where the division is. Every scaled value is one such
rounding of a multiple of the raw integer over a power of ten, with the unit's offset added.
-/

namespace Sys2Proof.Machine

/-! ### Rounding -/

section
variable {num den : Int}

theorem rnd_of_lt (tie : TieRule) (h : 2 * (num % den) < den) : rnd tie num den = num / den := if_pos h

theorem rnd_of_gt (tie : TieRule) (h : den < 2 * (num % den)) : rnd tie num den = num / den + 1 :=
  (if_neg (by omega)).trans (if_pos h)

theorem rnd_toEven_of_tie (h : 2 * (num % den) = den) :
    rnd .toEven num den = if num / den % 2 = 0 then num / den else num / den + 1 :=
  (if_neg h.not_lt).trans (if_neg h.not_gt)

theorem rnd_awayFromZero_of_tie (h : 2 * (num % den) = den) :
    rnd .awayFromZero num den = if num ≥ 0 then num / den + 1 else num / den :=
  (if_neg h.not_lt).trans (if_neg h.not_gt)

/-- Rounding goes down from a remainder of at most half the denominator, or up from one of at least half (R167). -/
theorem rnd_cases (tie : TieRule) (num den : Int) :
    (rnd tie num den = num / den ∧ 2 * (num % den) ≤ den) ∨
    (rnd tie num den = num / den + 1 ∧ den ≤ 2 * (num % den)) := by
  rcases lt_trichotomy (2 * (num % den)) den with h | h | h
  · exact .inl ⟨rnd_of_lt tie h, h.le⟩
  · cases tie with
    | toEven => rw [rnd_toEven_of_tie h]; split <;> simp [h]
    | awayFromZero => rw [rnd_awayFromZero_of_tie h]; split <;> simp [h]
  · exact .inr ⟨rnd_of_gt tie h, h.le⟩

/-- The rounded value misses num / den by at most a half. -/
theorem rnd_nearest (tie : TieRule) (num : Int) (hden : 0 < den) :
    -den ≤ 2 * (rnd tie num den * den - num) ∧ 2 * (rnd tie num den * den - num) ≤ den := by
  have hdiv : num / den * den + num % den = num := Int.ediv_mul_add_emod num den
  have hpos : 0 ≤ num % den := Int.emod_nonneg num hden.ne'
  have hlt : num % den < den := Int.emod_lt_of_pos num hden
  rcases rnd_cases tie num den with ⟨h, hr⟩ | ⟨h, hr⟩
  · rw [h]; omega
  · rw [h, add_mul, one_mul]; omega

/-- Only the quotient matters: a common factor cancels. -/
theorem rnd_mul_mul (tie : TieRule) (num den : Int) {k : Int} (hk : 0 < k) :
    rnd tie (k * num) (k * den) = rnd tie num den := by
  have hlt {a b : Int} : 2 * (k * a) < k * b ↔ 2 * a < b := by
    rw [mul_left_comm]; exact mul_lt_mul_iff_right₀ hk
  have hgt {a b : Int} : k * b < 2 * (k * a) ↔ b < 2 * a := by
    rw [mul_left_comm]; exact mul_lt_mul_iff_right₀ hk
  have hnonneg : k * num ≥ 0 ↔ num ≥ 0 := mul_nonneg_iff_of_pos_left hk
  simp only [rnd, Int.mul_ediv_mul_of_pos _ _ hk, Int.mul_emod_mul_of_pos _ _ hk, gt_iff_lt, hlt, hgt, hnonneg]

/-- A whole quotient is not rounded. -/
theorem rnd_mul_self (tie : TieRule) (a : Int) (hden : 0 < den) : rnd tie (a * den) den = a := by
  rw [rnd_of_lt tie (by rw [Int.mul_emod_left]; exact hden), Int.mul_ediv_cancel _ hden.ne']

/-- Bounds around zero on the numerator bound the rounded value. -/
theorem rnd_bounds (tie : TieRule) {lo hi : Int} (hden : 0 < den) (hlo : lo ≤ num) (hhi : num ≤ hi) (hlo0 : lo ≤ 0)
    (hhi0 : 0 ≤ hi) : lo ≤ rnd tie num den ∧ rnd tie num den ≤ hi + 1 := by
  have hlow : lo ≤ num / den := (Int.le_ediv_iff_mul_le hden).2 (by nlinarith)
  have hhigh : num / den ≤ hi := Int.ediv_le_of_le_mul hden (by nlinarith)
  rcases rnd_cases tie num den with ⟨h, -⟩ | ⟨h, -⟩ <;> omega

end

/-- Settles O30: the quotient is below num / den and its successor above, and on a tie the rule chooses. -/
theorem roundingIsNearestWithTieRule : Obligations.RoundingIsNearestWithTieRule := by
  refine ⟨fun tie num den hden => rnd_nearest tie num hden, fun num den hden htie => ?even,
    fun num den hden htie => ?away, by decide, by decide, by decide, by decide, rfl, fun tie => ?examples⟩
  case even =>
    rw [rnd_toEven_of_tie htie]
    split <;> omega
  case away =>
    have hdiv : num / den * den + num % den = num := Int.ediv_mul_add_emod num den
    rw [rnd_awayFromZero_of_tie htie]
    constructor
    · intro hnum
      rw [if_pos hnum, add_mul, one_mul]
      omega
    · intro hnum
      rw [if_neg (Int.not_le.2 hnum)]
      omega
  case examples => cases tie <;> decide

/-! ### Scaling -/

theorem pow_ten_pos (e : Nat) : (0 : Int) < 10 ^ e := pow_pos (by decide) e

/-- A field without TEMP has the factors 1, 1 and no offset, whatever the unit (R166). -/
theorem scaled_of_plain (tie : TieRule) (unit : TempUnit) (raw : Int) (e : Nat) :
    scaled tie unit raw e false = rnd tie (raw * 100) (10 ^ e) := by
  simp [scaled, conv]

theorem scaled_celsius (tie : TieRule) (raw : Int) (e : Nat) :
    scaled tie .celsius raw e true = rnd tie (raw * 100) (10 ^ e) := by
  simp [scaled, conv]

theorem scaled_kelvin (tie : TieRule) (raw : Int) (e : Nat) :
    scaled tie .kelvin raw e true = rnd tie (raw * 100) (10 ^ e) + 27315 := by
  simp [scaled, conv]

theorem scaled_fahrenheit (tie : TieRule) (raw : Int) (e : Nat) :
    scaled tie .fahrenheit raw e true = rnd tie (raw * 900) (5 * 10 ^ e) + 3200 := by
  simp [scaled, conv, mul_assoc]

/-- One scaling for every unit: 100 or 180 hundredths a raw unit, then an offset below 300 units (R166, R168). -/
theorem scaled_eq_rnd_add (tie : TieRule) (unit : TempUnit) (raw : Int) (e : Nat) (temp : Bool) :
    ∃ m off : Int, (m = 100 ∨ m = 180) ∧ 0 ≤ off ∧ off < 30000 ∧
      scaled tie unit raw e temp = rnd tie (raw * m) (10 ^ e) + off := by
  cases temp with
  | false => exact ⟨100, 0, .inl rfl, by decide, by decide, by rw [scaled_of_plain, add_zero]⟩
  | true =>
    cases unit with
    | celsius => exact ⟨100, 0, .inl rfl, by decide, by decide, by rw [scaled_celsius, add_zero]⟩
    | kelvin => exact ⟨100, 27315, .inl rfl, by decide, by decide, scaled_kelvin tie raw e⟩
    | fahrenheit =>
      refine ⟨180, 3200, .inr rfl, by decide, by decide, ?_⟩
      rw [scaled_fahrenheit, show raw * 900 = 5 * (raw * 180) by omega, rnd_mul_mul tie _ _ (by decide)]

/-- With three decimals the factor 100 cancels against 1000. -/
theorem scaled_three_of_plain (tie : TieRule) (unit : TempUnit) (raw : Int) :
    scaled tie unit raw 3 false = rnd tie raw 10 := by
  rw [scaled_of_plain, mul_comm raw, show (10 : Int) ^ 3 = 100 * 10 by decide, rnd_mul_mul tie _ _ (by decide)]

/-- Settles O31: up to two decimals 10^e divides 100, with three a division by 10 is left. -/
theorem scalingRoundTrip : Obligations.ScalingRoundTrip := by
  refine ⟨scaled_of_plain, fun tie unit raw e he => ?exact, scaled_three_of_plain, fun tie unit raw => ?near⟩
  case exact =>
    have hpow : (100 : Int) = 10 ^ (2 - e) * 10 ^ e := by rw [← pow_add, Nat.sub_add_cancel he]; decide
    rw [scaled_of_plain, hpow, ← mul_assoc, rnd_mul_self tie _ (pow_ten_pos e)]
  case near =>
    have hnear := rnd_nearest tie raw (den := 10) (by decide)
    rw [scaled_three_of_plain]
    omega

/-- Settles O32: each unit by its equation, Fahrenheit's bound from the one rounding it does. -/
theorem temperatureUnitsConvert : Obligations.TemperatureUnitsConvert := by
  refine ⟨fun tie raw e _ => ?units, fun tie => ?examples, by decide, by decide⟩
  case units =>
    have hden : (0 : Int) < 5 * 10 ^ e := mul_pos (by decide) (pow_ten_pos e)
    obtain ⟨hlow, hhigh⟩ := rnd_nearest tie (raw * 900) hden
    simp only [scaled_of_plain, scaled_celsius, scaled_kelvin, scaled_fahrenheit, add_sub_cancel_right,
      true_and, implies_true, and_true]
    exact ⟨hlow, hhigh⟩
  case examples => cases tie <;> decide

/-- Settles O33: the rounded value is at most 180 · (2^32 - 1) + 1 in size, which with the offset stays below 2^40. -/
theorem valueFitsSigned64 : Obligations.ValueFitsSigned64 := by
  intro tie unit raw e temp hlo hhi _
  obtain ⟨m, off, hm, hoff, hoff', hscaled⟩ := scaled_eq_rnd_add tie unit raw e temp
  have hbound : -(180 * 2147483648) ≤ raw * m ∧ raw * m ≤ 180 * 4294967295 := by
    rcases hm with rfl | rfl <;> omega
  obtain ⟨hrlo, hrhi⟩ := rnd_bounds tie (pow_ten_pos e) hbound.1 hbound.2 (by decide) (by decide)
  have hsize : -(2 ^ 40) < scaled tie unit raw e temp ∧ scaled tie unit raw e temp < 2 ^ 40 := by
    rw [hscaled]; omega
  exact ⟨hsize.1, hsize.2, BitVec.toInt_ofInt_eq_self (by decide) (by omega) (by omega)⟩

end Sys2Proof.Machine
end

section
/-!
PROOFS of O27 to O29 and O34. EXTRACT has four ends, a raise at each of its three checks and the result; each is said
once, with the checks that lead to it.
-/

namespace Sys2Proof.Machine

/-! ### The ends of EXTRACT, each with the whole state it leaves -/

section
variable {s : State} {idx : Nat} {d : Word} {k : FieldKind}

theorem exec_extract_of_unknown (hd : selectDescriptor s idx = none) :
    exec (.extract idx) s = .next { s with lastErr := some .unknownSection, errSeen := true } :=
  execExtract_of_none hd

theorem exec_extract_of_noFrame (hd : selectDescriptor s idx = some (d, k)) (hv : s.payloadValid = false) :
    exec (.extract idx) s = .next { s with lastErr := some .noFrame, errSeen := true } :=
  (execExtract_of_some hd).trans (if_pos hv)

theorem exec_extract_of_outOfRange (hd : selectDescriptor s idx = some (d, k)) (hv : s.payloadValid = true)
    (hr : s.plen < descOffset d + fieldWidth d k) :
    exec (.extract idx) s = .next { s with lastErr := some .decodeOutOfRange, errSeen := true } :=
  (execExtract_of_some hd).trans ((if_neg (by simp [hv])).trans (if_pos hr))

theorem exec_extract_of_inRange (hd : selectDescriptor s idx = some (d, k)) (hv : s.payloadValid = true)
    (hr : descOffset d + fieldWidth d k ≤ s.plen) :
    exec (.extract idx) s = .next (extractField d k s).withOk :=
  (execExtract_of_some hd).trans ((if_neg (by simp [hv])).trans (if_neg (Nat.not_lt.2 hr)))

/-- The result for an integer kind, by the offset and the integer that the field's bytes spell (R163). -/
theorem exec_extract_of_integer {o : Nat} {raw : Int} (hk : k ≠ .str) (hd : selectDescriptor s idx = some (d, k))
    (ho : o = descOffset d) (hv : s.payloadValid = true) (hr : o + fieldWidth d k ≤ s.plen)
    (hraw : rawInteger k (payloadBytes s.rx o (fieldWidth d k)) = raw) :
    exec (.extract idx) s = .next { s with
      raw := BitVec.ofInt 32 raw
      value := BitVec.ofInt 64 (scaled s.round s.tempUnit raw (descScale d) (descTemp d))
      lastErr := none } := by
  subst ho
  rw [exec_extract_of_inRange hd hv hr, extractField_of_integer hk, hraw]
  rfl

end

/-! ### The descriptor that an index selects -/

/-- A valid descriptor whose KIND field holds the code of a kind (R84, R164). -/
theorem selectDescriptor_of_code {s : State} {i : Fin 64} {d : Word} {k : FieldKind} (hd : d = s.desc[i.val])
    (hv : d.getLsbD 31 = true) (hk : (d.extractLsb' 16 4).toNat = k.code) :
    selectDescriptor s i.val = some (d, k) := by
  subst hd
  rw [selectDescriptor_of_valid s i hv, descKind_eq_some.2 hk, Option.map_some]

theorem FieldKind.code_le (k : FieldKind) : k.code ≤ 4 := by cases k <;> decide

theorem FieldKind.exists_code {n : Nat} (hn : n ≤ 4) : ∃ k : FieldKind, n = k.code := by
  match n with
  | 0 => exact ⟨.u16, rfl⟩
  | 1 => exact ⟨.s16, rfl⟩
  | 2 => exact ⟨.u32, rfl⟩
  | 3 => exact ⟨.s32, rfl⟩
  | 4 => exact ⟨.str, rfl⟩

/-- The KIND codes from 5 on are reserved (R84). -/
theorem descKind_of_reserved {d : Word} (h : 5 ≤ (d.extractLsb' 16 4).toNat) : descKind d = none := by
  refine Option.eq_none_iff_forall_ne_some.2 fun k hk => ?_
  have hcode := descKind_eq_some.1 hk
  have hle := k.code_le
  omega

/-- Settles O29: in each clause the descriptor's kind is known, and with it the width that the range check adds. -/
theorem extractChecksInOrder : Obligations.ExtractChecksInOrder := by
  refine ⟨fun s idx h => exec_extract_of_unknown (selectDescriptor_of_ge s h), fun s idx d hd => ?_⟩
  refine ⟨fun h => exec_extract_of_unknown ?unknown, fun hvalid hcode hv => ?noFrame, fun hvalid hv h => ?range⟩
  case unknown =>
    subst hd
    cases hvalid : (s.desc[idx.val]).getLsbD 31 with
    | false => exact selectDescriptor_of_invalid s idx hvalid
    | true =>
      have hreserved := h.resolve_left (by simp [hvalid])
      rw [selectDescriptor_of_valid s idx hvalid, descKind_of_reserved hreserved, Option.map_none]
  case noFrame =>
    obtain ⟨k, hk⟩ := FieldKind.exists_code hcode
    exact exec_extract_of_noFrame (selectDescriptor_of_code hd hvalid hk) hv
  case range =>
    obtain ⟨k, hk⟩ := FieldKind.exists_code (n := (d.extractLsb' 16 4).toNat) (by omega)
    refine exec_extract_of_outOfRange (selectDescriptor_of_code hd hvalid hk) hv ?_
    rw [hk] at h
    cases k <;> simpa [FieldKind.code, fieldWidth, descOffset, descWidth] using h

/-! ### Big-endian integers -/

/-- A byte appended below a word: the word's number times 256, plus the byte's. -/
theorem toNat_append_byte {w : Nat} (x : BitVec w) (b : Byte) : (x ++ b).toNat = x.toNat * 256 + b.toNat := by
  rw [BitVec.toNat_append, ← Nat.shiftLeft_add_eq_or_of_lt b.isLt, Nat.shiftLeft_eq]

/-- The two bytes of a field at a payload offset, as one number. -/
theorem beNat_payloadBytes_two {rx : Memory} {o : Nat} {h : Half} (hh : h = rx.read (3 + o) ++ rx.read (3 + o + 1)) :
    beNat (payloadBytes rx o 2) = h.toNat := by
  rw [hh, toNat_append_byte]
  simp [beNat, payloadBytes, payloadByte, List.range_succ, Nat.add_assoc]

/-- The four bytes of a field at a payload offset, as one number. -/
theorem beNat_payloadBytes_four {rx : Memory} {o : Nat} {f : Word}
    (hf : f = rx.read (3 + o) ++ rx.read (3 + o + 1) ++ rx.read (3 + o + 2) ++ rx.read (3 + o + 3)) :
    beNat (payloadBytes rx o 4) = f.toNat := by
  rw [hf, toNat_append_byte, toNat_append_byte, toNat_append_byte]
  simp [beNat, payloadBytes, payloadByte, List.range_succ, Nat.add_assoc]

/-- An unsigned kind reads the number that the bytes spell (R162). -/
theorem rawInteger_of_unsigned {k : FieldKind} {bs : List Byte} {w : Nat} {x : BitVec w} (hk : k.signed = false)
    (hx : beNat bs = x.toNat) : rawInteger k bs = x.toNat := by
  rw [rawInteger, hk, if_neg Bool.false_ne_true, hx]

/-- A signed kind reads the same bits as two's complement (R162). -/
theorem rawInteger_of_signed {k : FieldKind} {bs : List Byte} {w : Nat} {x : BitVec w} (hk : k.signed = true)
    (hw : 8 * bs.length = w) (hx : beNat bs = x.toNat) : rawInteger k bs = x.toInt := by
  subst hw
  rw [rawInteger, if_pos hk, hx, BitVec.ofNat_toNat, BitVec.setWidth_eq]

/-- Settles O27: the field's bytes spell the integer, whose low 32 bits are RAW. -/
theorem extractIntegerResult : Obligations.ExtractIntegerResult := by
  intro s idx d o h f hd ho hvalid hv hh hf
  have hselect (k : FieldKind) {code : BitVec 4} (hcode : d.extractLsb' 16 4 = code) (hk : code.toNat = k.code) :
      selectDescriptor s idx.val = some (d, k) := selectDescriptor_of_code hd hvalid (hcode ▸ hk)
  refine ⟨fun hk hr => ?u16, fun hk hr => ?s16, fun hk hr => ?u32, fun hk hr => ?s32⟩
  case u16 =>
    have hraw : rawInteger .u16 (payloadBytes s.rx o 2) = h.toNat :=
      rawInteger_of_unsigned rfl (beNat_payloadBytes_two hh)
    have hend := exec_extract_of_integer (by decide) (hselect .u16 hk rfl) ho hv hr hraw
    rwa [BitVec.ofInt_natCast, BitVec.ofNat_toNat] at hend
  case s16 =>
    have hraw : rawInteger .s16 (payloadBytes s.rx o 2) = h.toInt :=
      rawInteger_of_signed rfl rfl (beNat_payloadBytes_two hh)
    exact exec_extract_of_integer (by decide) (hselect .s16 hk rfl) ho hv hr hraw
  case u32 =>
    have hraw : rawInteger .u32 (payloadBytes s.rx o 4) = f.toNat :=
      rawInteger_of_unsigned rfl (beNat_payloadBytes_four hf)
    have hend := exec_extract_of_integer (by decide) (hselect .u32 hk rfl) ho hv hr hraw
    rwa [BitVec.ofInt_natCast, BitVec.ofNat_toNat, BitVec.setWidth_eq] at hend
  case s32 =>
    have hraw : rawInteger .s32 (payloadBytes s.rx o 4) = f.toInt :=
      rawInteger_of_signed rfl rfl (beNat_payloadBytes_four hf)
    have hend := exec_extract_of_integer (by decide) (hselect .s32 hk rfl) ho hv hr hraw
    rwa [BitVec.ofInt_toInt] at hend

/-! ### Strings -/

/-- Settles O28: STR_LEN is the trimmed length. -/
theorem extractStringResult : Obligations.ExtractStringResult := by
  intro s idx d o n hd ho hn hvalid hk hv hr
  have hselect : selectDescriptor s idx.val = some (d, .str) :=
    selectDescriptor_of_code hd hvalid (congrArg BitVec.toNat hk)
  subst ho hn
  obtain ⟨hle, hnul, hlast⟩ := trimmedLength_spec s.rx (descOffset d) (descWidth d)
  refine ⟨trimmedLength s.rx (descOffset d) (descWidth d), exec_extract_of_inRange hselect hv hr, hle,
    fun j hj hjn => ?nul, fun hpos => ?last⟩
  case nul =>
    rw [Nat.add_assoc]
    exact hnul j hj hjn
  case last =>
    rw [Nat.add_assoc, Nat.add_sub_assoc (by omega), Nat.add_sub_assoc (by omega)]
    exact hlast hpos

/-! ### Another RX with the same payload -/

/-- The result reads the field's bytes and nothing else of RX, and leaves RX. -/
theorem extractField_of_rx_congr {s : State} {m : Memory} (d : Word) (k : FieldKind)
    (h : ∀ j < fieldWidth d k, payloadByte s.rx (descOffset d + j) = payloadByte m (descOffset d + j)) :
    extractField d k { s with rx := m } = { extractField d k s with rx := m } := by
  by_cases hk : k = .str
  · subst hk
    have hlen : trimmedLength s.rx (descOffset d) (descWidth d) = trimmedLength m (descOffset d) (descWidth d) :=
      trimmedLength_congr h
    simp only [extractField, ← hlen]
    rfl
  · rw [extractField_of_integer hk, extractField_of_integer hk, ← payloadBytes_congr h]
    rfl

/-- Settles O34: the checks do not look at RX, and a field in range lies below PLEN. -/
theorem extractReadsOnlyPayload : Obligations.ExtractReadsOnlyPayload := by
  intro idx s t m hbytes h
  cases commandEnd_of_exec h with
  | extractUnknown hd => exact exec_extract_of_unknown hd
  | extractNoFrame hd hv => exact exec_extract_of_noFrame hd hv
  | extractOutOfRange hd hv hr => exact exec_extract_of_outOfRange hd hv hr
  | extracted hd hv hr =>
    rw [exec_extract_of_inRange (s := { s with rx := m }) hd hv hr,
      extractField_of_rx_congr _ _ fun j hj => hbytes _ (by omega)]
    rfl

end Sys2Proof.Machine
end

section
/-!
PROOFS of O35 to O37. Each of the two decodes is said bit by bit; that one set bit gives one flag, and one ABOVE cell
one ABOVE level, follows from the bits.
-/

namespace Sys2Proof.Machine

/-! ### The two decodes bit by bit -/

/-- Named index i is bit 15 - i of the status word (R191). -/
theorem getLsbD_flagVector (w : BitVec 16) {i : Nat} (hi : i < 16) :
    (flagVector w).getLsbD i = w.getLsbD (15 - i) := by
  rw [flagVector, BitVec.getLsbD_reverse, BitVec.getMsbD_eq_getLsbD]
  simp only [hi, decide_true, Bool.true_and, Nat.add_one_sub_one]

/-- The decode of the status word in the low half of the selected word (R191). -/
theorem getLsbD_flagVector_lowHalf (w : Word) {i : Nat} (hi : i < 16) :
    (flagVector (w.extractLsb' 0 16)).getLsbD i = w.getLsbD (15 - i) := by
  have hlow : 15 - i < 16 := by omega
  rw [getLsbD_flagVector _ hi, BitVec.getLsbD_extractLsb', Nat.zero_add]
  simp only [hlow, decide_true, Bool.true_and]

/-- The alarm level is the two bits from 2 · IDX up (R193). -/
theorem getLsbD_alarmField (w : Word) (idx : Nat) {j : Nat} (hj : j < 2) :
    (alarmField w idx).getLsbD j = w.getLsbD (2 * idx + j) := by
  rw [alarmField, BitVec.getLsbD_extractLsb', BitVec.getLsbD_ushiftRight, Nat.zero_add]
  simp only [hj, decide_true, Bool.true_and]

/-! ### One-hot words -/

/-- One set status bit gives one flag (R195). -/
theorem flagVector_oneHot {i : Nat} (hi : i < 16) : flagVector (1#16 <<< (15 - i)) = 1#16 <<< i := by
  refine BitVec.eq_of_getLsbD_eq fun k hk => ?_
  have hmirror : 15 - i = 15 - k ↔ i = k := by omega
  have hfits : 15 - i < 16 := by omega
  rw [getLsbD_flagVector _ hk, ← BitVec.twoPow_eq, ← BitVec.twoPow_eq]
  simp only [BitVec.getLsbD_twoPow, hi, hfits, hmirror]

/-- One ABOVE cell among NONE cells gives ABOVE at its index and NONE at every other (R195). -/
theorem alarmField_oneHot {i j : Nat} (hi : i < 16) :
    alarmField (0b10#32 <<< (2 * i)) j = if j = i then 0b10#2 else 0b00#2 := by
  have habove : 0b10#32 <<< (2 * i) = BitVec.twoPow 32 (1 + 2 * i) := by
    rw [BitVec.twoPow_eq, BitVec.shiftLeft_add]
    rfl
  have hlevel : 0b10#2 = BitVec.twoPow 2 1 := rfl
  refine BitVec.eq_of_getLsbD_eq fun k hk => ?_
  rw [getLsbD_alarmField _ _ hk, habove, BitVec.getLsbD_twoPow]
  by_cases hji : j = i
  · have hbit : 1 + 2 * i = 2 * i + k ↔ 1 = k := by omega
    have hfits : 1 + 2 * i < 32 := by omega
    subst hji
    rw [if_pos rfl, hlevel, BitVec.getLsbD_twoPow]
    simp only [hbit, hfits, Nat.one_lt_two]
  · have hother : 1 + 2 * i ≠ 2 * j + k := by omega
    rw [if_neg hji, BitVec.getLsbD_zero]
    simp only [hother, decide_false, Bool.and_false]

/-- Settles O37: the source is the selected word, whichever it is, and the decode of a one-hot word is one-hot. -/
theorem oneHotWordsDecodeOneHot : Obligations.OneHotWordsDecodeOneHot := by
  constructor
  · intro src s i hi hw
    rw [← flagVector_oneHot hi, ← hw]
    rfl
  · intro src s i j hi _ hw
    rw [← alarmField_oneHot hi, ← hw]
    rfl

/-! ### The commands -/

/-- A register narrower than 32 bits reads as its field under zero bits. -/
theorem extractLsb'_zeroExtend {v : Nat} (k : Nat) (x : BitVec v) :
    (x.zeroExtend (k + v)).extractLsb' 0 v = x ∧ (x.zeroExtend (k + v)).extractLsb' v k = 0#k := by
  rw [zeroExtend_eq_zero_append]
  exact ⟨BitVec.extractLsb'_append_eq_right, BitVec.extractLsb'_append_eq_left⟩

/-- Settles O35: the reversal bit by bit, the words by the encoder, the zero bits by the command's row. -/
theorem decFlagsReversesBits : Obligations.DecFlagsReversesBits :=
  ⟨fun s => ⟨_, rfl, fun _ => getLsbD_flagVector_lowHalf s.arg0⟩,
    fun s => ⟨_, rfl, fun _ => getLsbD_flagVector_lowHalf s.raw⟩,
    fun s => extractLsb'_zeroExtend 16 s.flags,
    decodeOfEncode (.decFlags .arg0) rfl, decodeOfEncode (.decFlags .raw) rfl, illegalWhenSet_zeroBits .decFlags⟩

/-- The word of DEC.ALARM, its field A taken apart into the zero bits with SRC and the index (R81). -/
theorem decode_alarmWord (src : WordSource) (idx : BitVec 4) :
    decode (0#16 ++ (0#3 ++ src.bit) ++ idx ++ 0x31#8) = .ok (.decAlarm src idx.toNat) := by
  refine decode_eq_ok_iff_encode.2 ⟨decide_eq_true idx.isLt, ?_⟩
  rw [BitVec.append_assoc (x₁ := 0#16), BitVec.cast_eq, encode, commandWord, BitVec.ofNat_toNat, BitVec.setWidth_eq]

/-- Settles O36: the two bits, the words by the encoder, the zero bits by the command's row. -/
theorem decAlarmReadsTwoBits : Obligations.DecAlarmReadsTwoBits :=
  ⟨fun s idx _ => ⟨_, rfl, fun _ => getLsbD_alarmField s.arg0 idx⟩,
    fun s idx _ => ⟨_, rfl, fun _ => getLsbD_alarmField s.raw idx⟩,
    fun idx => ⟨decode_alarmWord .arg0 idx, decode_alarmWord .raw idx⟩,
    fun s => extractLsb'_zeroExtend 30 s.level, illegalWhenSet_zeroBits .decAlarm⟩

end Sys2Proof.Machine
end

section
/-!
PROOF of O7, from the facts about the decoder and the must-be-zero bits above.
-/

namespace Sys2Proof.Machine

/-- Settles O7: NOP completes from the state itself, its word by the encoder, its zero bits by its row. -/
theorem nopOnlyCompletes : Obligations.NopOnlyCompletes :=
  ⟨fun _ => rfl, decodeOfEncode .nop rfl, illegalWhenSet_zeroBits .nop⟩

end Sys2Proof.Machine
end

section
/-!
PROOFS of O50 and O51. A command keeps the three fields that a reset leaves, so a reset after it gives what a reset in
its place gives.
-/

namespace Sys2Proof.Machine

/-- The reset state depends on the three fields a reset leaves alone (log entry 8). -/
theorem State.afterReset_congr {s t : State} (hpending : t.pending = s.pending) (hreads : t.reads = s.reads)
    (hchoices : t.choices = s.choices) : t.afterReset = s.afterReset := by
  simp only [State.afterReset, hpending, hreads, hchoices]

/-- A reset hides the write to CMD before it: a legal command and an illegal word keep the fields a reset leaves. -/
theorem afterReset_of_command {w : Word} {s t : State} (h : command w s = .next t) : t.afterReset = s.afterReset := by
  cases hd : decode w with
  | ok i =>
    obtain ⟨-, -, -, -, -, -, -, hpending, hreads, hchoices⟩ :=
      noCommandWritesHostState i s t (command_of_ok hd s ▸ h)
    exact State.afterReset_congr hpending hreads hchoices
  | error e =>
    cases (command_of_error hd s).symm.trans h
    rfl

/-- Settles O50: both orders complete; with the reset last, the state is the reset state whatever the command did. -/
theorem resetDuringCommandIsBeforeOrAfter : Obligations.ResetDuringCommandIsBeforeOrAfter := by
  intro s rest w hp
  obtain ⟨t, ht⟩ := resetWithCommand_answers w (s.withPending rest)
  obtain ⟨u, hu⟩ := command_answers w ((s.withPending rest).withChoices (s.choices + 1)).afterReset
  refine ⟨t, u, (step_cons hp).trans ht, hu, ?_⟩
  obtain hfirst | ⟨v, hv, rfl⟩ := resetWithCommand_cases ht
  · exact .inl (Host.Outcome.next.inj (hfirst.symm.trans hu))
  · exact .inr (afterReset_of_command hv)

/-- Settles O51: with nothing pending, a step is the wait (log entry 3). -/
theorem nothingChangesWithoutAnAccess : Obligations.NothingChangesWithoutAnAccess := by
  intro s hp
  simp only [step, hp]

end Sys2Proof.Machine
end
